-- ==== Sys2Proof/Word.lean ====
section
/-! DEFINITION. The two word types of the block: the u8 of a component, a filter-type byte or a filtered byte, and the
u32 of a host-visible register (spec/00_scope.md R6, R9, R11). -/

namespace Sys2Proof

/-- A u8: one component, one byte of the raw stream (R6, R11). -/
abbrev Byte := BitVec 8

/-- A u32: one host-visible register (R9). -/
abbrev Word := BitVec 32

end Sys2Proof
end

