-- ==== Sys2Proof/Syntax.lean ====
section
/-! DEFINITION. The instruction set: the five filter types, one constructor per row of spec/opcode_table.json. -/

namespace Sys2Proof

/-- The filter type of a scanline (spec/30_encoding.md R58). The opcode byte has no sub-fields (R56): a constructor
carries no operand. The 3W operand bytes reach the block one push at a time, each its own atomic step (R57,
40_defilter.md R69); `Scanline` (WellFormed.lean) is an opcode together with them. -/
inductive Instr where
  /-- FT 0x00, None: x = s (R71). -/
  | none
  /-- FT 0x01, Sub: x = s + left (R72). -/
  | sub
  /-- FT 0x02, Up: x = s + up (R73). -/
  | up
  /-- FT 0x03, Average: x = s + floor((left + up) / 2) (R74). -/
  | avg
  /-- FT 0x04, Paeth: x = s + paeth(left, up, upper-left) (R75). -/
  | paeth
deriving DecidableEq, Repr

end Sys2Proof
end

