-- ==== Sys2Proof/WellFormed.lean ====
section
/-! DEFINITION. Scanlines and raw streams as syntax, and when they are well formed. An `Instr` alone carries no operand
and needs no check; what can be ill formed is a scanline of the wrong length (spec/30_encoding.md R54, R55), a stream
with the wrong number of scanlines (R53), or an image without pixels (00_scope.md R7). -/

namespace Sys2Proof

/-- One scanline: the filter type and the filtered bytes that follow it, in stream order (R54). -/
structure Scanline where
  op : Instr
  samples : List Byte
deriving DecidableEq, Repr

/-- A scanline of an image `w` pixels wide holds exactly `3 * w` filtered bytes (R55, R60: "A row line must hold exactly
W pixels"). -/
def Scanline.wf (w : Nat) (l : Scanline) : Bool := l.samples.length == 3 * w

/-- The raw stream of a `w` by `h` image: at least one pixel (R7), `h` scanlines (R53), each well formed (R55). -/
def streamWf (w h : Nat) (rows : List Scanline) : Bool :=
  decide (1 ≤ w) && decide (1 ≤ h) && rows.length == h && rows.all (Scanline.wf w)

end Sys2Proof
end

