-- ==== Sys2Proof/Decode.lean ====
section
/-! DEFINITION. Decoding and encoding of the raw stream (spec/30_encoding.md): the filter-type byte, one scanline, a
stream of scanlines; then the encoders, written from the same map (R58). -/

namespace Sys2Proof

/-- Why bytes are no scanline. -/
inductive DecodeError where
  /-- The filter-type byte is 5..255 (R59). -/
  | badFilterType (f : Byte)
  /-- Fewer than 1 + 3W bytes are left (R55). -/
  | shortScanline
deriving DecidableEq, Repr

/-- The opcode map of R58, on the whole byte (R56); every other value is illegal (R59). -/
def decodeFT (f : Byte) : Except DecodeError Instr :=
  if f = 0x00#8 then .ok .none
  else if f = 0x01#8 then .ok .sub
  else if f = 0x02#8 then .ok .up
  else if f = 0x03#8 then .ok .avg
  else if f = 0x04#8 then .ok .paeth
  else .error (.badFilterType f)

/-- One scanline of an image `w` pixels wide, read from the front of the stream, with the bytes left over (R54, R55). -/
def decodeScanline (w : Nat) : List Byte → Except DecodeError (Scanline × List Byte)
  | [] => .error .shortScanline
  | f :: rest =>
    match decodeFT f with
    | .error e => .error e
    | .ok op =>
      if 3 * w ≤ rest.length then .ok (⟨op, rest.take (3 * w)⟩, rest.drop (3 * w))
      else .error .shortScanline

/-- `h` scanlines, row 0 first, with the bytes left over (R53). -/
def decodeStream (w : Nat) : Nat → List Byte → Except DecodeError (List Scanline × List Byte)
  | 0, bytes => .ok ([], bytes)
  | h + 1, bytes =>
    match decodeScanline w bytes with
    | .error e => .error e
    | .ok (l, rest) =>
      match decodeStream w h rest with
      | .error e => .error e
      | .ok (ls, rest') => .ok (l :: ls, rest')

/-- The filter-type byte of a filter type (R58). -/
def encodeFT : Instr → Byte
  | .none => 0x00#8
  | .sub => 0x01#8
  | .up => 0x02#8
  | .avg => 0x03#8
  | .paeth => 0x04#8

/-- The bytes of a scanline: FT, then the filtered bytes in order (R54, R60). -/
def encodeScanline (l : Scanline) : List Byte := encodeFT l.op :: l.samples

/-- The concatenation of the scanlines, row 0 first (R53). -/
def encodeStream : List Scanline → List Byte
  | [] => []
  | l :: ls => encodeScanline l ++ encodeStream ls

/-- The `n` bytes of `w`, least significant first: byte 0 of an opcode-table word is the first byte of the stream. -/
def lowBytes : Nat → Nat → List Byte
  | 0, _ => []
  | n + 1, w => BitVec.ofNat 8 w :: lowBytes n (w / 256)

/-- The bytes an opcode-table word of `nbits` bits stands for, in stream order; bits above `nbits` are not part of it. -/
def tableBytes (nbits w : Nat) : List Byte := lowBytes ((nbits + 7) / 8) (w % 2 ^ nbits)

/-- What the decoder reads from an opcode-table word: its bytes followed by operand bytes of zero, as a scanline of an
image one pixel wide (the opcode does not depend on the width, R56). -/
def decodeTableWord (nbits w : Nat) : Option Instr :=
  match decodeScanline 1 (tableBytes nbits w ++ List.replicate 4 0x00#8) with
  | .ok (l, _) => some l.op
  | .error _ => Option.none

end Sys2Proof
end

