-- ==== Sys2Proof/Config.lean ====
section
/-! DEFINITION. What an implementation of the block fixes: the capacity of the pixel-grid memory, and nothing else.
The block has no undefined result, so there is no free value beside it. -/

namespace Sys2Proof

/-- GRID_BYTES (spec/00_scope.md R8, OPEN by 92_eei_decisions.md D8): the capacity of the grid memory in bytes.
No body: nothing in Lean can prove a value of it (log entry 1, DESIGN CHOICE). It reaches the machine only as the
value of State.gridBytes at reset, so that every statement over all states holds for every capacity. -/
opaque Config.gridBytes : Nat

end Sys2Proof
end

