-- ==== Sys2Proof/Machine/State.lean ====
section
/-! DEFINITION. The state of the Scanline Defilterer, the host operations, the ways a step can stop, and the state after
reset (spec/10_state.md, 41_host_interface.md, 70_reset_and_hazards.md). -/

namespace Sys2Proof.Machine

/-- PHASE, the sequencer state (R17). Codes 5..7 are never produced, so they are no values here (log entry 13, DEDUCED). -/
inductive Phase where
  | idle | filter | sample | done | error
deriving DecidableEq, Repr

/-- The twelve host-visible registers (R28). -/
inductive Reg where
  | ctrl | status | width | height | rowsDone | errKind | errRow | errByte | curRow | curCol | curComp | ftype
deriving DecidableEq, Repr

/-- What the host does with a byte the input port does not accept (R88): it waits for ever, or it keeps the byte and goes
on with its next operation, as the host of program P4 in spec/95_test_vectors.md does (log entry 6). -/
inductive IfNotAccepted where
  | waits | movesOn
deriving DecidableEq, Repr

/-- The five host operations (R81). START is `wr 0 1` (R61). -/
inductive HostOp where
  /-- RD: read the register of this index (R83). -/
  | rd (i : BitVec 8)
  /-- WR: write this value to the register of this index (R84). -/
  | wr (i : BitVec 8) (v : Word)
  /-- PUSH: offer a byte at the input port (R87). -/
  | push (b : Byte) (m : IfNotAccepted)
  /-- GRD: read the grid byte at this address (R90); an address has no width in the spec (log entry 12, DEDUCED). -/
  | grd (addr : Nat)
  /-- RESET (R108). -/
  | reset
deriving DecidableEq, Repr

/-- The value a read returns to the host: a register (R83) or a grid byte (R90). -/
inductive Reply where
  | reg (v : Word)
  | byte (v : Byte)
deriving DecidableEq, Repr

/-- The pixel grid: the written cells, as (byte address, byte), addresses strictly rising. An address that is not listed is
an unwritten cell (R31, R39; log entry 2). -/
abbrev Memory := List Host.Cell

/-- The machine. The first twelve fields are the block's state as the spec names it, the next two the session's image size,
the last three the model's own (INVENTORY.md, State). -/
structure State where
  /-- PHASE (R17). -/
  phase : Phase
  /-- WIDTH (R24). -/
  width : Word
  /-- HEIGHT (R24). -/
  height : Word
  /-- CUR_ROW (R18). -/
  curRow : Word
  /-- CUR_COL (R19). -/
  curCol : Word
  /-- CUR_COMP (R20). -/
  curComp : BitVec 2
  /-- FTYPE, the per-row predictor selector (R22). -/
  ftype : BitVec 3
  /-- ROWS_DONE (R23). -/
  rowsDone : Word
  /-- ERR_KIND (R25). -/
  errKind : BitVec 4
  /-- ERR_ROW (R25). -/
  errRow : Word
  /-- ERR_BYTE (R25). -/
  errByte : Byte
  /-- The pixel grid (R31). -/
  grid : Memory
  /-- The W of the current or last session: WIDTH as START found it (R24, R86; log entry 3, DEDUCED). -/
  sessW : Word
  /-- The H of the current or last session: HEIGHT as START found it (R24, R86; log entry 3, DEDUCED). -/
  sessH : Word
  /-- GRID_BYTES (R8): a parameter of the machine that no step changes (log entry 1, DESIGN CHOICE). -/
  gridBytes : Nat
  /-- The host operations still to come, in order: the host's program, no queue of the block (R33, R82; log entry 4,
  DESIGN CHOICE). -/
  script : List HostOp
  /-- What the last RD or GRD returned to the host (log entry 5, DESIGN CHOICE). -/
  reply : Option Reply
deriving DecidableEq, Repr

/-- Model faults (R98). None is reached from a state that meets `MachineInv` (Safety.lean). -/
inductive Fault where
  /-- A read of an unwritten cell (R37); raised by the boundary multiplexer and GRD. Safe: the model stops. -/
  | unwrittenGridRead
  /-- A second write of a cell (R38); raised by the sample step. Safe: the model stops. -/
  | gridRewrite
  /-- A grid access outside `r < H`, `c < W`, `k < 3`, which R37 and R38 do not define; raised by the boundary multiplexer
  and the sample step. Safe: the model stops (log entry 8, DEDUCED). -/
  | gridOutOfRange
  /-- FTYPE is 5..7 in SAMPLE (R66, 93_implementation_defined.md U12); raised by a push. Safe: the model stops. -/
  | ftypeOutOfRange
deriving DecidableEq, Repr

/-- Refusals: the host broke a duty and the run has no meaning from there on (R98). -/
inductive Refusal where
  /-- An instruction whose meaning is not modelled; raised by the arms of `exec` only. Safe: the model stops. -/
  | notModelled (mnemonic : String)
  /-- WIDTH or HEIGHT was written while BUSY (R84); raised by WR. Safe: the model stops. -/
  | configWriteWhileBusy
  /-- START was not admitted (R85); raised by WR CTRL. Safe: the model stops. -/
  | startNotAdmitted
  /-- A grid read outside DONE or at 3WH or beyond (R90); raised by GRD. Safe: the model stops. -/
  | gridReadNotHandedOff
deriving DecidableEq, Repr

/-- The machine right after reset (R108): PHASE IDLE, every register 0, every cell unwritten. The model's own fields take
the values of log entries 1, 3, 4 and 5. -/
def State.reset : State where
  phase := .idle
  width := 0
  height := 0
  curRow := 0
  curCol := 0
  curComp := 0
  ftype := 0
  rowsDone := 0
  errKind := 0
  errRow := 0
  errByte := 0
  grid := []
  sessW := 0
  sessH := 0
  gridBytes := Config.gridBytes
  script := []
  reply := none

end Sys2Proof.Machine
end

