-- ==== Sys2Proof/Machine/Flags.lean ====
section
/-! DEFINITION. The status flags. The block has no condition codes and no arithmetic flags (spec/10_state.md R30): BUSY, DONE
and ERROR are derived from PHASE and hold no state (R26). -/

namespace Sys2Proof.Machine

/-- The code of a phase in STATUS.PHASE (R17). -/
def Phase.code : Phase → BitVec 3
  | .idle => 0
  | .filter => 1
  | .sample => 2
  | .done => 3
  | .error => 4

/-- BUSY: FILTER or SAMPLE (R17, R26). -/
def Phase.busy : Phase → Bool
  | .filter | .sample => true
  | .idle | .done | .error => false

/-- STATUS: PHASE in bits 2:0, BUSY in bit 3, DONE in bit 4, ERROR in bit 5, the reserved bits 31:6 zero (R26). -/
def statusWord (p : Phase) : Word :=
  0#26 ++ BitVec.ofBool (p == .error) ++ BitVec.ofBool (p == .done) ++ BitVec.ofBool p.busy ++ p.code

end Sys2Proof.Machine
end

