-- ==== Sys2Proof/Machine/Ops.lean ====
section
/-! DEFINITION. The named operations over the grid, the registers and the sequencer: grid bytes, GridRead and GridWrite, the
register map, the input port, loading the selector, error entry and what leaves it (START, RESET), the cursor advance. -/

namespace Sys2Proof.Machine

/-! ## Grid bytes -/

/-- The byte at an address; none for an unwritten cell (R31). -/
def Memory.read : Memory → Nat → Option Byte
  | [], _ => none
  | (k, v) :: m, a => if a = k then some v else Memory.read m a

/-- Writes one byte, keeping the addresses strictly rising. -/
def Memory.write : Memory → Nat → Byte → Memory
  | [], a, v => [(a, v)]
  | (k, u) :: m, a, v =>
    if a < k then (a, v) :: (k, u) :: m
    else if a = k then (a, v) :: m
    else (k, u) :: Memory.write m a v

/-- The written addresses, in the order they are held. -/
def Memory.keys (m : Memory) : List Nat := m.map Prod.fst

/-- The canonical form: addresses strictly rising, so that equal grids are equal data. No entry can equal what an unlisted
address reads as, since that is no byte. -/
abbrev Memory.wf (m : Memory) : Prop := List.Pairwise (· < ·) (Memory.keys m)

/-- The byte address of component `k` of pixel (`r`, `c`) in a grid `w` pixels wide (R39). -/
def gridAddr (w r c k : Nat) : Nat := (r * w + c) * 3 + k

/-- GridRead in a grid of `w` by `h` pixels (R37). -/
def gridRead (w h : Nat) (m : Memory) (r c k : Nat) : Except Fault Byte :=
  if r < h ∧ c < w ∧ k < 3 then
    match Memory.read m (gridAddr w r c k) with
    | some v => .ok v
    | none => .error .unwrittenGridRead
  else .error .gridOutOfRange

/-- GridWrite in a grid of `w` by `h` pixels (R38): the cell must be unwritten. -/
def gridWrite (w h : Nat) (m : Memory) (r c k : Nat) (v : Byte) : Except Fault Memory :=
  if r < h ∧ c < w ∧ k < 3 then
    match Memory.read m (gridAddr w r c k) with
    | some _ => .error .gridRewrite
    | none => .ok (Memory.write m (gridAddr w r c k) v)
  else .error .gridOutOfRange

/-! ## The register map -/

/-- The register of an index; none for the unmapped indices 12..255 (R28). -/
def regOfIndex (i : BitVec 8) : Option Reg :=
  match i.toNat with
  | 0 => some .ctrl
  | 1 => some .status
  | 2 => some .width
  | 3 => some .height
  | 4 => some .rowsDone
  | 5 => some .errKind
  | 6 => some .errRow
  | 7 => some .errByte
  | 8 => some .curRow
  | 9 => some .curCol
  | 10 => some .curComp
  | 11 => some .ftype
  | _ => none

/-- The value of a register, its unused high bits 0; CTRL reads 0 (R27, R28). -/
def readReg (s : State) : Reg → Word
  | .ctrl => 0
  | .status => statusWord s.phase
  | .width => s.width
  | .height => s.height
  | .rowsDone => s.rowsDone
  | .errKind => s.errKind.setWidth 32
  | .errRow => s.errRow
  | .errByte => s.errByte.setWidth 32
  | .curRow => s.curRow
  | .curCol => s.curCol
  | .curComp => s.curComp.setWidth 32
  | .ftype => s.ftype.setWidth 32

/-- A register read by index; an unmapped index reads 0 (R29). -/
def readIndex (s : State) (i : BitVec 8) : Word :=
  match regOfIndex i with
  | some r => readReg s r
  | none => 0

/-! ## The host's side -/

/-- The byte at the input port: the one the host offers next, if it offers one (R16, R87). -/
def portByte (s : State) : Option Byte :=
  match s.script with
  | .push b _ :: _ => some b
  | _ => none

/-- The host operation is done, and the host goes on to its next one (R82). -/
def opDone (s : State) : State := { s with script := s.script.tail }

/-- A read answers the host (R83, R90). -/
def answer (v : Reply) (s : State) : State := { s with reply := some v }

/-- The input port does not accept the byte (R88): the block's state stays as it is. A host that waits stays at its push; one
that moves on keeps the byte and goes to its next operation. -/
def notAccepted (s : State) : State :=
  match s.script with
  | .push _ .movesOn :: rest => { s with script := rest }
  | _ => s

/-! ## The sequencer -/

/-- A valid filter-type byte loads the predictor selector and opens the row (R68). -/
def selectRow (code : BitVec 3) (s : State) : State := { s with ftype := code, phase := .sample }

/-- Error entry: `raise FormatError(kind, row, byte)` (R95). The block's one exception. There is no saved cursor, vector or
handler; nothing returns from it but START (`beginSession`) and RESET (`resetBlock`) (R97). The grid stays as it is, which no
host operation can see (log entry 9, DEDUCED). -/
def raiseFormatError (kind : BitVec 4) (row : Word) (byte : Byte) (s : State) : State :=
  { s with errKind := kind, errRow := row, errByte := byte, phase := .error }

/-- ERR_KIND of BAD_FILTER_TYPE (R93). -/
def badFilterType : BitVec 4 := 1

/-- Whether START is admitted (R85): not BUSY, both sizes at least 1, and the grid fits, computed exactly. -/
def startAdmitted (s : State) : Bool :=
  !s.phase.busy && decide (1 ≤ s.width.toNat) && decide (1 ≤ s.height.toNat) &&
    decide (3 * s.width.toNat * s.height.toNat ≤ s.gridBytes)

/-- START (R86): a new session on WIDTH and HEIGHT as they are. It leaves DONE and ERROR, clearing the error record (R97). -/
def beginSession (s : State) : State :=
  { s with
    grid := [], curRow := 0, curCol := 0, curComp := 0, ftype := 0, rowsDone := 0, errKind := 0, errRow := 0, errByte := 0,
    phase := .filter, sessW := s.width, sessH := s.height }

/-- RESET (R108): the block as `State.reset` has it. The capacity, which is no state (R35), and the host's side stay. -/
def resetBlock (s : State) : State :=
  { State.reset with gridBytes := s.gridBytes, script := s.script, reply := s.reply }

/-- The cursor advance, the last part of a sample step (R70). -/
def advance (s : State) : State :=
  if s.curComp.toNat < 2 then { s with curComp := s.curComp + 1 }
  else if s.curCol.toNat + 1 < s.width.toNat then { s with curComp := 0, curCol := s.curCol + 1 }
  else
    { s with
      curComp := 0, curCol := 0, rowsDone := s.rowsDone + 1, curRow := s.curRow + 1,
      phase := if s.curRow.toNat + 1 = s.height.toNat then .done else .filter }

end Sys2Proof.Machine
end

