-- ==== Sys2Proof/Machine/Operands.lean ====
section
/-! DEFINITION. The operands of the sample step and the arithmetic on them (spec/40_defilter.md section 1): the boundary-case
multiplexer, the Average and Paeth predictors, the modular adder. -/

namespace Sys2Proof.Machine

/-- The three neighbour values of the component under the cursor, named as in R62. -/
structure Neighbours where
  /-- left -/
  a : Byte
  /-- up -/
  b : Byte
  /-- upper-left -/
  c : Byte
deriving DecidableEq, Repr

/-- One input of the multiplexer: the grid cell inside the image, 0 outside it, where the grid is not accessed (R62, R79). -/
def muxInput (inside : Bool) (cell : Except Fault Byte) : Except Fault Byte :=
  if inside then cell else .ok 0

/-- The boundary-case multiplexer (R62). It produces all three values whatever FTYPE is. -/
def boundaryMux (s : State) : Except Fault Neighbours :=
  let w := s.width.toNat
  let h := s.height.toNat
  let r := s.curRow.toNat
  let col := s.curCol.toNat
  let k := s.curComp.toNat
  match muxInput (decide (0 < col)) (gridRead w h s.grid r (col - 1) k),
      muxInput (decide (0 < r)) (gridRead w h s.grid (r - 1) col k),
      muxInput (decide (0 < r) && decide (0 < col)) (gridRead w h s.grid (r - 1) (col - 1) k) with
  | .ok a, .ok b, .ok c => .ok ⟨a, b, c⟩
  | .error e, _, _ => .error e
  | .ok _, .error e, _ => .error e
  | .ok _, .ok _, .error e => .error e

/-- Average predictor: the exact 9-bit sum, halved toward zero (R64). -/
def average (a b : Byte) : Byte := BitVec.ofNat 8 ((a.toNat + b.toNat) / 2)

/-- Paeth predictor, on mathematical integers, ties toward left, then up, then upper-left (R65). -/
def paethPredictor (a b c : Byte) : Byte :=
  let predicted : Int := (a.toNat : Int) + b.toNat - c.toNat
  let dLeft := (predicted - a.toNat).natAbs
  let dUp := (predicted - b.toNat).natAbs
  let dUpLeft := (predicted - c.toNat).natAbs
  if dLeft ≤ dUp ∧ dLeft ≤ dUpLeft then a
  else if dUp ≤ dUpLeft then b
  else c

/-- Modular adder: the low 8 bits of the 9-bit sum, the carry discarded (R67). -/
def modAdd (s p : Byte) : Byte := BitVec.ofNat 8 ((s.toNat + p.toNat) % 256)

end Sys2Proof.Machine
end

