-- ==== Sys2Proof/Machine/Filters.lean ====
section
/-! DEFINITION. The five filter types (spec/40_defilter.md section 3). The meaning of an instruction is what the block does with
the byte at its input port while that filter type is the row's: in FILTER the byte is the row's filter-type byte and loads
the selector (R68); in SAMPLE it is a filtered byte and one component is reconstructed (R69). -/

namespace Sys2Proof.Machine

/-- The selector code of a filter type: the low three bits of its filter-type byte (R22, R58). -/
def selectorCode (i : Instr) : BitVec 3 := (encodeFT i).setWidth 3

/-- The sample step (R69): neighbours, predictor, modular adder, one grid write, the cursor advance; the byte is consumed. -/
def sampleStep (predict : Neighbours → Byte) (b : Byte) (s : State) : Host.Outcome State Fault Refusal :=
  match boundaryMux s with
  | .error e => .fault e
  | .ok n =>
    match gridWrite s.width.toNat s.height.toNat s.grid s.curRow.toNat s.curCol.toNat s.curComp.toNat
        (modAdd b (predict n)) with
    | .error e => .fault e
    | .ok g => .next (opDone (advance { s with grid := g }))

/-- One byte of a row whose filter type has this selector code and predictor: the common form of the five meanings (R87).
With no byte at the port there is no step to take, and the state stays (R81; log entry 10, DESIGN CHOICE). -/
def rowStep (code : BitVec 3) (predict : Neighbours → Byte) (s : State) : Host.Outcome State Fault Refusal :=
  match portByte s with
  | none => .next s
  | some b =>
    match s.phase with
    | .filter => .next (opDone (selectRow code s))
    | .sample => sampleStep predict b s
    | .idle | .done | .error => .next (notAccepted s)

/-- NONE predicts 0 (R66, R71). -/
def predictNone (_ : Neighbours) : Byte := 0

/-- SUB predicts left (R66, R72). -/
def predictSub (n : Neighbours) : Byte := n.a

/-- UP predicts up (R66, R73). -/
def predictUp (n : Neighbours) : Byte := n.b

/-- AVG predicts the average of left and up (R66, R74). -/
def predictAvg (n : Neighbours) : Byte := average n.a n.b

/-- PAETH predicts the Paeth choice among left, up and upper-left (R66, R75). -/
def predictPaeth (n : Neighbours) : Byte := paethPredictor n.a n.b n.c

/-- The predictor of each filter type (R66). No meaning calls it: statements about every filter type are said with it. -/
def predictor : Instr → Neighbours → Byte
  | .none => predictNone
  | .sub => predictSub
  | .up => predictUp
  | .avg => predictAvg
  | .paeth => predictPaeth

/-- NONE, filter type 0 (R71). -/
def execNone (s : State) : Host.Outcome State Fault Refusal := rowStep (selectorCode .none) predictNone s

/-- SUB, filter type 1 (R72). -/
def execSub (s : State) : Host.Outcome State Fault Refusal := rowStep (selectorCode .sub) predictSub s

/-- UP, filter type 2 (R73). -/
def execUp (s : State) : Host.Outcome State Fault Refusal := rowStep (selectorCode .up) predictUp s

/-- AVG, filter type 3 (R74). -/
def execAvg (s : State) : Host.Outcome State Fault Refusal := rowStep (selectorCode .avg) predictAvg s

/-- PAETH, filter type 4 (R75). -/
def execPaeth (s : State) : Host.Outcome State Fault Refusal := rowStep (selectorCode .paeth) predictPaeth s

end Sys2Proof.Machine
end

