-- ==== Sys2Proof/Machine/Dispatch.lean ====
section
/-! DEFINITION. One arm per filter type: the per-row predictor selector (spec/40_defilter.md R66). -/

namespace Sys2Proof.Machine

/-- What the block does with the byte at its input port in a row of this filter type. -/
def exec (i : Instr) (s : State) : Host.Outcome State Fault Refusal :=
  match i with
  | .none => Sys2Proof.Machine.execNone s
  | .sub => Sys2Proof.Machine.execSub s
  | .up => Sys2Proof.Machine.execUp s
  | .avg => Sys2Proof.Machine.execAvg s
  | .paeth => Sys2Proof.Machine.execPaeth s

end Sys2Proof.Machine
end

