-- ==== Sys2Proof/Machine/Commands.lean ====
section
/-! DEFINITION. The host operations (spec/41_host_interface.md, 70_reset_and_hazards.md): each is one atomic step (R82). -/

namespace Sys2Proof.Machine

/-- The host does nothing: the block has no autonomous step (R81, R89). -/
def hostSilent (s : State) : Host.Outcome State Fault Refusal := .next s

/-- RD i (R83): allowed in every phase, no side effect. -/
def hostRead (i : BitVec 8) (s : State) : Host.Outcome State Fault Refusal :=
  .next (opDone (answer (.reg (readIndex s i)) s))

/-- START (R85, R86). -/
def hostStart (s : State) : Host.Outcome State Fault Refusal :=
  if startAdmitted s then .next (opDone (beginSession s)) else .refused .startNotAdmitted

/-- WR i, v (R84): CTRL bit 0 issues START, WIDTH and HEIGHT are written unless BUSY, everything else is ignored (R29). -/
def hostWrite (i : BitVec 8) (v : Word) (s : State) : Host.Outcome State Fault Refusal :=
  match regOfIndex i with
  | some .ctrl => if v.getLsbD 0 then hostStart s else .next (opDone s)
  | some .width =>
    if s.phase.busy then .refused .configWriteWhileBusy else .next (opDone { s with width := v })
  | some .height =>
    if s.phase.busy then .refused .configWriteWhileBusy else .next (opDone { s with height := v })
  | _ => .next (opDone s)

/-- PUSH f (R87). In FILTER the byte is decoded and either runs its instruction or raises FormatError (R68); in SAMPLE it runs
the instruction FTYPE selects (R66, R69); elsewhere it is not accepted (R88). -/
def hostPush (f : Byte) (s : State) : Host.Outcome State Fault Refusal :=
  match s.phase with
  | .filter =>
    match decodeFT f with
    | .ok i => exec i s
    | .error _ => .next (opDone (raiseFormatError badFilterType s.curRow f s))
  | .sample =>
    match decodeFT (s.ftype.setWidth 8) with
    | .ok i => exec i s
    | .error _ => .fault .ftypeOutOfRange
  | .idle | .done | .error => .next (notAccepted s)

/-- GRD addr (R90): in DONE, below 3WH, the byte of the cell the address names; W and H are the session's (log entry 3). -/
def hostGridRead (addr : Nat) (s : State) : Host.Outcome State Fault Refusal :=
  let w := s.sessW.toNat
  let h := s.sessH.toNat
  if s.phase = .done ∧ addr < 3 * w * h then
    match gridRead w h s.grid (addr / (3 * w)) (addr % (3 * w) / 3) (addr % 3) with
    | .ok v => .next (opDone (answer (.byte v) s))
    | .error e => .fault e
  else .refused .gridReadNotHandedOff

/-- RESET (R108): allowed in every phase. -/
def hostReset (s : State) : Host.Outcome State Fault Refusal := .next (opDone (resetBlock s))

/-- The host's next operation, as one atomic transition (R82). -/
def hostStep (s : State) : Host.Outcome State Fault Refusal :=
  match s.script with
  | [] => hostSilent s
  | .rd i :: _ => hostRead i s
  | .wr i v :: _ => hostWrite i v s
  | .push f _ :: _ => hostPush f s
  | .grd addr :: _ => hostGridRead addr s
  | .reset :: _ => hostReset s

/-- The host pushes these bytes, waiting for each to be accepted. -/
def pushes (bytes : List Byte) : List HostOp := bytes.map (fun b => .push b .waits)

/-- A state in which the next byte pushed is a filter-type byte: `s` itself in FILTER; otherwise `s` after a START for an image
of one pixel (log entry 7). -/
def atFilterType (s : State) : State :=
  if s.phase = .filter then s else beginSession { s with width := 1, height := 1 }

/-- `s` about to fetch an opcode-table word: the host's script is its bytes, then operand bytes of zero for one row. -/
def placeTableWord (s : State) (nbits w : Nat) : State :=
  let t := atFilterType s
  { t with script := pushes (tableBytes nbits w ++ List.replicate (3 * t.width.toNat) 0x00#8) }

end Sys2Proof.Machine
end

