-- ==== Sys2Proof/Machine/Step.lean ====
section
/-! DEFINITION. The step function: one host operation and the block step it causes (spec/41_host_interface.md R81, R82). -/

namespace Sys2Proof.Machine

/-- One step of the machine. -/
def step (s : State) : Host.Outcome State Fault Refusal := hostStep s

/-- `s` with an opcode-table word as the next thing the block fetches: at its input port, in FILTER (log entry 7). -/
def State.withFetchWord (s : State) (nbits w : Nat) : State := placeTableWord s nbits w

end Sys2Proof.Machine
end

