-- ==== Sys2Proof/Safety.lean ====
section
/-! DEFINITION. What counts as a safe state: the invariants of spec/10_state.md R34, and the stream offset they are said in. -/

namespace Sys2Proof.Machine

/-- The offset, in the raw stream, of the next byte the block will consume (R21); none when not BUSY. -/
def streamOffset (s : State) : Option Nat :=
  match s.phase with
  | .filter => some (s.curRow.toNat * (1 + 3 * s.width.toNat))
  | .sample => some (s.curRow.toNat * (1 + 3 * s.width.toNat) + 1 + 3 * s.curCol.toNat + s.curComp.toNat)
  | .idle | .done | .error => none

/-- The stream offset of component cell (`r`, `c`, `k`) in an image `w` pixels wide (R34 I3). -/
def cellOffset (w r c k : Nat) : Nat := r * (1 + 3 * w) + 1 + 3 * c + k

/-- The grid address of the cursor: the number of cells before it in raster order. -/
def cursorAddr (s : State) : Nat := gridAddr s.sessW.toNat s.curRow.toNat s.curCol.toNat s.curComp.toNat

/-- The offending offset of a BAD_FILTER_TYPE error (R96), which the host computes. -/
def offendingOffset (s : State) : Nat := s.errRow.toNat * (1 + 3 * s.sessW.toNat)

/-- IDLE: no session since reset, so every cursor and count is 0 (R17, R108). -/
abbrev IdleInv (s : State) : Prop :=
  s.phase = .idle → s.curRow = 0 ∧ s.curCol = 0 ∧ s.curComp = 0 ∧ s.ftype = 0 ∧ s.rowsDone = 0

/-- A session has at least one pixel and fits the grid memory (R85). -/
abbrev SessionInv (s : State) : Prop :=
  s.phase ≠ .idle →
    1 ≤ s.sessW.toNat ∧ 1 ≤ s.sessH.toNat ∧ 3 * s.sessW.toNat * s.sessH.toNat ≤ s.gridBytes

/-- While BUSY, WIDTH and HEIGHT are the session's W and H, and ROWS_DONE = CUR_ROW (R24; R34 I4). -/
abbrev BusyInv (s : State) : Prop :=
  s.phase.busy = true → s.width = s.sessW ∧ s.height = s.sessH ∧ s.rowsDone = s.curRow

/-- R34 I1. -/
abbrev FilterInv (s : State) : Prop :=
  s.phase = .filter → s.curRow.toNat < s.sessH.toNat ∧ s.curCol = 0 ∧ s.curComp = 0

/-- R34 I2, but for FTYPE. -/
abbrev SampleInv (s : State) : Prop :=
  s.phase = .sample → s.curRow.toNat < s.sessH.toNat ∧ s.curCol.toNat < s.sessW.toNat ∧ s.curComp.toNat ≤ 2

/-- R34 I5, but for the grid. -/
abbrev DoneInv (s : State) : Prop :=
  s.phase = .done → s.curRow = s.sessH ∧ s.curCol = 0 ∧ s.curComp = 0 ∧ s.rowsDone = s.sessH

/-- R34 I6, but for the grid, with the record R95 writes. -/
abbrev ErrorInv (s : State) : Prop :=
  s.phase = .error →
    s.curCol = 0 ∧ s.curComp = 0 ∧ s.rowsDone = s.errRow ∧ s.errRow = s.curRow ∧ s.curRow.toNat < s.sessH.toNat ∧
      s.errKind = badFilterType ∧ 5 ≤ s.errByte.toNat

/-- R34 I7. -/
abbrev NoErrorInv (s : State) : Prop :=
  s.phase ≠ .error → s.errKind = 0 ∧ s.errRow = 0 ∧ s.errByte = 0

/-- R34 I3, and the grid parts of I5 and I6: the written cells are exactly the cells before the cursor, each once, in
canonical form. -/
abbrev GridInv (s : State) : Prop := Memory.keys s.grid = List.range (cursorAddr s)

/-- The invariant: R34 (I1 to I7), with FTYPE in 0..4 in every phase (R22). -/
abbrev MachineInv (s : State) : Prop :=
  IdleInv s ∧ SessionInv s ∧ BusyInv s ∧ FilterInv s ∧ SampleInv s ∧ DoneInv s ∧ ErrorInv s ∧ NoErrorInv s ∧
    GridInv s ∧ s.ftype.toNat ≤ 4

/-! ## The terms the statements about sample steps use -/

/-- The grid address the sample step stores to (R79: "the store writes address A"). -/
def cellAddr (s : State) : Nat := gridAddr s.width.toNat s.curRow.toNat s.curCol.toNat s.curComp.toNat

/-- `a` is the left neighbour of the component under the cursor (R62). -/
abbrev LeftIs (s : State) (a : Byte) : Prop :=
  if s.curCol = 0 then a = 0
  else Memory.read s.grid (gridAddr s.width.toNat s.curRow.toNat (s.curCol.toNat - 1) s.curComp.toNat) = some a

/-- `b` is its up neighbour (R62). -/
abbrev UpIs (s : State) (b : Byte) : Prop :=
  if s.curRow = 0 then b = 0
  else Memory.read s.grid (gridAddr s.width.toNat (s.curRow.toNat - 1) s.curCol.toNat s.curComp.toNat) = some b

/-- `c` is its upper-left neighbour (R62). -/
abbrev UpLeftIs (s : State) (c : Byte) : Prop :=
  if s.curRow = 0 ∨ s.curCol = 0 then c = 0
  else
    Memory.read s.grid (gridAddr s.width.toNat (s.curRow.toNat - 1) (s.curCol.toNat - 1) s.curComp.toNat) = some c

/-- The cursor names a cell of the image (R34 I2). -/
abbrev CursorInside (s : State) : Prop :=
  s.curRow.toNat < s.height.toNat ∧ s.curCol.toNat < s.width.toNat ∧ s.curComp.toNat < 3

/-- A filtered byte `f` can be consumed: SAMPLE, `f` at the port, the cell under the cursor inside the image and unwritten,
its neighbours `a`, `b` and `c`. Every state that meets `MachineInv` in SAMPLE with a byte at the port is such a state. -/
abbrev SampleReady (s : State) (f a b c : Byte) : Prop :=
  s.phase = .sample ∧ portByte s = some f ∧ CursorInside s ∧ Memory.read s.grid (cellAddr s) = none ∧
    LeftIs s a ∧ UpIs s b ∧ UpLeftIs s c

/-- From `s` to `t` the cursor advances as R70 says. -/
abbrev CursorAdvanced (s t : State) : Prop :=
  if s.curComp.toNat < 2 then
    t.curComp.toNat = s.curComp.toNat + 1 ∧ t.curCol = s.curCol ∧ t.curRow = s.curRow ∧ t.rowsDone = s.rowsDone ∧
      t.phase = s.phase
  else if s.curCol.toNat + 1 < s.width.toNat then
    t.curComp = 0 ∧ t.curCol.toNat = s.curCol.toNat + 1 ∧ t.curRow = s.curRow ∧ t.rowsDone = s.rowsDone ∧
      t.phase = s.phase
  else
    t.curComp = 0 ∧ t.curCol = 0 ∧ t.curRow.toNat = s.curRow.toNat + 1 ∧ t.rowsDone = s.rowsDone + 1 ∧
      t.phase = if s.curRow.toNat + 1 = s.height.toNat then .done else .filter

/-- What no byte of a row changes: the image size, the error record, the session, the capacity, the last reply. -/
abbrev RowFrame (s t : State) : Prop :=
  t.width = s.width ∧ t.height = s.height ∧ t.errKind = s.errKind ∧ t.errRow = s.errRow ∧ t.errByte = s.errByte ∧
    t.sessW = s.sessW ∧ t.sessH = s.sessH ∧ t.gridBytes = s.gridBytes ∧ t.reply = s.reply

/-- The sample step with outcome `o` goes on and reconstructs `x` (R69): the cell under the cursor holds `x`, every other cell
is as before, the cursor advances, the selector and the frame stay, the byte is consumed. -/
def Reconstructs (o : Host.Outcome State Fault Refusal) (s : State) (x : Nat) : Prop :=
  ∃ t, o = .next t ∧ (∃ v, Memory.read t.grid (cellAddr s) = some v ∧ v.toNat = x) ∧
    (∀ a, a ≠ cellAddr s → Memory.read t.grid a = Memory.read s.grid a) ∧
    CursorAdvanced s t ∧ t.ftype = s.ftype ∧ RowFrame s t ∧ t.script = s.script.tail

/-- The byte a grid holds at a cell, as the multiplexer delivers it when the cell is written. -/
def cellValue (m : Memory) (w r c k : Nat) : Byte := (Memory.read m (gridAddr w r c k)).getD 0

/-- The neighbours of a cell in a reconstructed grid (R62). -/
def neighboursIn (m : Memory) (w r c k : Nat) : Neighbours where
  a := if c = 0 then 0 else cellValue m w r (c - 1) k
  b := if r = 0 then 0 else cellValue m w (r - 1) c k
  c := if r = 0 ∨ c = 0 then 0 else cellValue m w (r - 1) (c - 1) k

/-- Cell (`r`, `c`, `k`) of a grid is the reconstruction of scanline `l`: written, with the filtered byte plus the predictor of
its neighbours, mod 256 (R66, R67, R69). -/
def CellReconstructed (m : Memory) (w : Nat) (l : Scanline) (r c k : Nat) : Prop :=
  ∃ f, l.samples[3 * c + k]? = some f ∧
    Memory.read m (gridAddr w r c k) = some (modAdd f (predictor l.op (neighboursIn m w r c k)))

end Sys2Proof.Machine
end

