-- ==== Sys2Proof/Certificates/Slice0/Obligations.lean ====
section
/-! DEFINITION. The statements for the provers, in the order of the spec's files. -/

open Sys2Proof Sys2Proof.Machine

/-! ## Encoding (spec/30_encoding.md) -/

/-- The five words of R58's table, written bit by bit, decode to the filter types they stand for; 0x05 and 0xFF to none. -/
def Obligations.OpcodeWordsDecode : Prop :=
  decodeFT 0b00000000#8 = .ok .none ∧ decodeFT 0b00000001#8 = .ok .sub ∧ decodeFT 0b00000010#8 = .ok .up ∧
    decodeFT 0b00000011#8 = .ok .avg ∧ decodeFT 0b00000100#8 = .ok .paeth ∧
    decodeFT 0b00000101#8 = .error (.badFilterType 0x05#8) ∧ decodeFT 0b11111111#8 = .error (.badFilterType 0xFF#8)

/-- R56, R58: the whole byte is the opcode. A byte decodes exactly when its value is 0..4, and each filter type is decoded
from its own byte alone. -/
def Obligations.OpcodeIsTheWholeByte : Prop :=
  ∀ f : Byte, ((∃ i, decodeFT f = .ok i) ↔ f.toNat ≤ 4) ∧ ∀ i, decodeFT f = .ok i ↔ f = encodeFT i

/-- R59: every filter-type byte 5..255 is rejected by the decoder, and consuming it raises FormatError with kind
BAD_FILTER_TYPE: no such byte is a no-op. -/
def Obligations.IllegalFilterTypeRaisesFormatError : Prop :=
  ∀ (s : State) (f : Byte) (m : IfNotAccepted) (rest : List HostOp),
    s.phase = .filter → s.script = .push f m :: rest → 5 ≤ f.toNat →
      decodeFT f = .error (.badFilterType f) ∧
      ∃ t, step s = .next t ∧ t.phase = .error ∧ t.errKind.toNat = 1 ∧ t.script = rest

/-- R53, R54, R55: decoding the encoding of any stream of well-formed scanlines gives the scanlines back, every filter type
and every filtered byte of them, and leaves the bytes that follow. -/
def Obligations.StreamDecodesItsEncoding : Prop :=
  ∀ (w : Nat) (rows : List Scanline) (rest : List Byte), (∀ l ∈ rows, l.wf w = true) →
    decodeStream w rows.length (encodeStream rows ++ rest) = .ok (rows, rest)

/-- R53, R54, R55: a stream that decodes is the encoding of what it decodes to, so no byte has two readings. -/
def Obligations.StreamEncodesItsDecoding : Prop :=
  ∀ (w h : Nat) (bytes : List Byte) (rows : List Scanline) (rest : List Byte),
    decodeStream w h bytes = .ok (rows, rest) →
      rows.length = h ∧ (∀ l ∈ rows, l.wf w = true) ∧ encodeStream rows ++ rest = bytes

/-- R53: scanline `r` occupies the offsets `r*(1+3W) .. r*(1+3W)+3W` of the stream, whose length is `H*(1+3W)`. -/
def Obligations.ScanlinesPartitionTheStream : Prop :=
  ∀ (w : Nat) (rows : List Scanline), (∀ l ∈ rows, l.wf w = true) →
    (encodeStream rows).length = rows.length * (1 + 3 * w) ∧
    ∀ (r : Nat) (l : Scanline), rows[r]? = some l →
      ((encodeStream rows).drop (r * (1 + 3 * w))).take (1 + 3 * w) = encodeScanline l

/-! ## Memory (spec/20_memory.md) -/

/-- R39: every address below 3WH names exactly one cell, and every cell has its one address there. -/
def Obligations.AddressMapNamesEachCellOnce : Prop :=
  ∀ w h a : Nat,
    (a < 3 * w * h → ∃ r c k, (r < h ∧ c < w ∧ k < 3) ∧ gridAddr w r c k = a ∧
      ∀ r' c' k', r' < h → c' < w → k' < 3 → gridAddr w r' c' k' = a → r' = r ∧ c' = c ∧ k' = k) ∧
    ∀ r c k, r < h → c < w → k < 3 → gridAddr w r c k = (r * w + c) * 3 + k ∧ gridAddr w r c k < 3 * w * h

/-- R38, R31: a written cell keeps its byte over every step but an admitted START and a RESET, which empty the grid. -/
def Obligations.WrittenCellIsImmutable : Prop :=
  ∀ (s t : State) (a : Nat) (v : Byte), step s = .next t → Memory.read s.grid a = some v →
    Memory.read t.grid a = some v ∨
      (t.grid = [] ∧ ((∃ x rest, s.script = .wr 0 x :: rest ∧ x.getLsbD 0 = true ∧ t.phase = .filter) ∨
        ∃ rest, s.script = .reset :: rest))

/-! ## Datapath (spec/40_defilter.md section 1) -/

/-- R62: inside the image the multiplexer delivers exactly the three neighbours of the component under the cursor, 0 outside
the image, whatever FTYPE is. -/
def Obligations.BoundaryMultiplexerDeliversNeighbours : Prop :=
  ∀ (s : State) (n : Neighbours), CursorInside s →
    (boundaryMux s = .ok n ↔ LeftIs s n.a ∧ UpIs s n.b ∧ UpLeftIs s n.c) ∧
    ∀ q, boundaryMux { s with ftype := q } = boundaryMux s

/-- R64: the average is the exact 9-bit sum halved, its bits 8:1. -/
def Obligations.AverageHalvesTheExactSum : Prop :=
  ∀ a b : Byte, (average a b).toNat = (a.toNat + b.toNat) / 2 ∧
    average a b = (a.setWidth 9 + b.setWidth 9).extractLsb' 1 8

/-- R65: the Paeth choice by the simplified distances, over the integers: ties toward left, then up, then upper-left; the
prediction and the distances have the ranges the rule gives. -/
def Obligations.PaethChoosesTheNearestNeighbour : Prop :=
  ∀ a b c : Byte,
    let predicted : Int := (a.toNat : Int) + b.toNat - c.toNat
    let dLeft := ((b.toNat : Int) - c.toNat).natAbs
    let dUp := ((a.toNat : Int) - c.toNat).natAbs
    let dUpLeft := ((a.toNat : Int) + b.toNat - 2 * c.toNat).natAbs
    (dLeft = (predicted - a.toNat).natAbs ∧ dUp = (predicted - b.toNat).natAbs ∧
      dUpLeft = (predicted - c.toNat).natAbs) ∧
    (-255 ≤ predicted ∧ predicted ≤ 510 ∧ dLeft ≤ 255 ∧ dUp ≤ 255 ∧ dUpLeft ≤ 510) ∧
    (dLeft ≤ dUp ∧ dLeft ≤ dUpLeft → paethPredictor a b c = a) ∧
    (¬ (dLeft ≤ dUp ∧ dLeft ≤ dUpLeft) → dUp ≤ dUpLeft → paethPredictor a b c = b) ∧
    (¬ (dLeft ≤ dUp ∧ dLeft ≤ dUpLeft) → ¬ dUp ≤ dUpLeft → paethPredictor a b c = c)

/-- R67: the adder is the sum mod 256, the low 8 bits of the 9-bit sum. -/
def Obligations.ModularAdderDropsTheCarry : Prop :=
  ∀ s p : Byte, (modAdd s p).toNat = (s.toNat + p.toNat) % 256 ∧
    modAdd s p = (s.setWidth 9 + p.setWidth 9).setWidth 8

/-- R79: the neighbours' addresses lie 3, 3W and 3W + 3 below the address stored to, so no step reads its own destination. -/
def Obligations.NeighbourAddressesLieBelowTheStore : Prop :=
  ∀ w r c k : Nat, c < w →
    (0 < c → gridAddr w r (c - 1) k + 3 = gridAddr w r c k) ∧
    (0 < r → gridAddr w (r - 1) c k + 3 * w = gridAddr w r c k) ∧
    (0 < r → 0 < c → gridAddr w (r - 1) (c - 1) k + 3 * w + 3 = gridAddr w r c k) ∧
    (0 < c → gridAddr w r (c - 1) k < gridAddr w r c k) ∧
    (0 < r → gridAddr w (r - 1) c k < gridAddr w r c k) ∧
    (0 < r → 0 < c → gridAddr w (r - 1) (c - 1) k < gridAddr w r c k)

/-! ## The consuming steps (spec/40_defilter.md section 2) -/

/-- A step runs the decoded instruction. In FILTER the byte pushed is decoded and its instruction executed; in SAMPLE the
instruction FTYPE selects is (R66, R87); the step adds nothing around `exec`. FTYPE 5..7 in SAMPLE faults (93 U12). -/
def Obligations.StepRunsDecodedInstruction : Prop :=
  ∀ (s : State) (f : Byte) (m : IfNotAccepted) (rest : List HostOp), s.script = .push f m :: rest →
    (∀ i, s.phase = .filter → decodeFT f = .ok i → step s = exec i s) ∧
    (∀ i, s.phase = .sample → s.ftype.setWidth 8 = encodeFT i → step s = exec i s) ∧
    (s.phase = .sample → 5 ≤ s.ftype.toNat → step s = .fault .ftypeOutOfRange)

/-- Each of the five instructions, executed on the filter-type byte of its row, loads its selector code, which is its
filter-type byte, and enters SAMPLE; nothing else changes and the byte is consumed (R68, R22). -/
def Obligations.InstructionLoadsItsSelector : Prop :=
  ∀ (i : Instr) (s : State) (f : Byte) (m : IfNotAccepted) (rest : List HostOp),
    s.phase = .filter → s.script = .push f m :: rest →
      ∃ q : BitVec 3, q.toNat = (encodeFT i).toNat ∧
        exec i s = .next { s with ftype := q, phase := .sample, script := rest }

/-- R68: the filter-type step, on every byte: 0..4 loads FTYPE and enters SAMPLE, 5..255 raises FormatError with the row and
the byte. Nothing else changes; no grid cell is written. -/
def Obligations.FilterTypeStep : Prop :=
  ∀ (s : State) (f : Byte) (m : IfNotAccepted) (rest : List HostOp),
    s.phase = .filter → s.script = .push f m :: rest →
      (f.toNat ≤ 4 → step s = .next { s with ftype := f.setWidth 3, phase := .sample, script := rest }) ∧
      (5 ≤ f.toNat →
        step s = .next { s with errKind := 1, errRow := s.curRow, errByte := f, phase := .error, script := rest })

/-- R70: after a sample step that goes on, whichever of the five instructions took it, the cursor has advanced as the rule
says. -/
def Obligations.SampleStepAdvancesTheCursor : Prop :=
  ∀ (i : Instr) (s t : State) (f : Byte) (m : IfNotAccepted) (rest : List HostOp),
    s.phase = .sample → s.script = .push f m :: rest → exec i s = .next t → CursorAdvanced s t

/-- The frame of the five instructions, in every phase: the image size, the error record, the session, the capacity and the
last reply never change; FTYPE changes in FILTER only; outside SAMPLE the cursor, the count and every cell stay; in SAMPLE
every cell but the one under the cursor stays. -/
def Obligations.InstructionFrame : Prop :=
  ∀ (i : Instr) (s t : State), exec i s = .next t →
    RowFrame s t ∧ (s.phase ≠ .filter → t.ftype = s.ftype) ∧
    (s.phase ≠ .sample → t.curRow = s.curRow ∧ t.curCol = s.curCol ∧ t.curComp = s.curComp ∧
      t.rowsDone = s.rowsDone ∧ ∀ a, Memory.read t.grid a = Memory.read s.grid a) ∧
    ∀ a, a ≠ cellAddr s → Memory.read t.grid a = Memory.read s.grid a

/-! ## The five filter types (spec/40_defilter.md section 3) -/

/-- R71: NONE reconstructs `s`, whatever the row, the column and the neighbours. -/
def Obligations.NoneIsTheIdentity : Prop :=
  ∀ (s : State) (f a b c : Byte), SampleReady s f a b c → Reconstructs (exec .none s) s f.toNat

/-- R72: SUB reconstructs `(s + a) mod 256`, which is `s` in column 0. -/
def Obligations.SubAddsLeft : Prop :=
  ∀ (s : State) (f a b c : Byte), SampleReady s f a b c →
    Reconstructs (exec .sub s) s ((f.toNat + a.toNat) % 256) ∧
    (s.curCol = 0 → Reconstructs (exec .sub s) s f.toNat)

/-- R73: UP reconstructs `(s + b) mod 256`, which is `s` in row 0. -/
def Obligations.UpAddsUp : Prop :=
  ∀ (s : State) (f a b c : Byte), SampleReady s f a b c →
    Reconstructs (exec .up s) s ((f.toNat + b.toNat) % 256) ∧
    (s.curRow = 0 → Reconstructs (exec .up s) s f.toNat)

/-- R74: AVG reconstructs `(s + floor((a + b) / 2)) mod 256` with the sum exact, and its corner cases. -/
def Obligations.AvgAddsTheAverage : Prop :=
  ∀ (s : State) (f a b c : Byte), SampleReady s f a b c →
    Reconstructs (exec .avg s) s ((f.toNat + (a.toNat + b.toNat) / 2) % 256) ∧
    (s.curCol = 0 → Reconstructs (exec .avg s) s ((f.toNat + b.toNat / 2) % 256)) ∧
    (s.curRow = 0 → Reconstructs (exec .avg s) s ((f.toNat + a.toNat / 2) % 256)) ∧
    (s.curRow = 0 → s.curCol = 0 → Reconstructs (exec .avg s) s f.toNat) ∧
    (a = 255 → b = 255 → Reconstructs (exec .avg s) s ((f.toNat + 255) % 256))

/-- R75: PAETH reconstructs `(s + paeth(a, b, c)) mod 256`, and its corner cases: SUB in row 0, UP in column 0 below it, `s` in
the corner, and the ties and extremes of the choice. -/
def Obligations.PaethAddsTheChoice : Prop :=
  (∀ (s : State) (f a b c : Byte), SampleReady s f a b c →
    Reconstructs (exec .paeth s) s ((f.toNat + (paethPredictor a b c).toNat) % 256) ∧
    (s.curRow = 0 → Reconstructs (exec .paeth s) s ((f.toNat + a.toNat) % 256)) ∧
    (s.curCol = 0 → s.curRow ≠ 0 → Reconstructs (exec .paeth s) s ((f.toNat + b.toNat) % 256)) ∧
    (s.curRow = 0 → s.curCol = 0 → Reconstructs (exec .paeth s) s f.toNat)) ∧
  (∀ a b c : Byte,
    let dLeft := ((b.toNat : Int) - c.toNat).natAbs
    let dUp := ((a.toNat : Int) - c.toNat).natAbs
    let dUpLeft := ((a.toNat : Int) + b.toNat - 2 * c.toNat).natAbs
    (a = b → b = c → paethPredictor a b c = a) ∧
    (dLeft = dUp → dUp < dUpLeft → paethPredictor a b c = a) ∧
    (dUp = dUpLeft → dUpLeft < dLeft → paethPredictor a b c = b)) ∧
  paethPredictor 0 0 255 = 0 ∧ paethPredictor 255 255 0 = 255

/-- R77: the lanes are independent. Two states whose cursor, size and byte agree and whose grids agree on the cells of the
cursor's own component get the same reconstructed byte. -/
def Obligations.LanesAreIndependent : Prop :=
  ∀ (i : Instr) (s s' t t' : State) (f : Byte),
    s.phase = .sample → s'.phase = .sample → portByte s = some f → portByte s' = some f →
    s'.width = s.width → s'.height = s.height →
    s'.curRow = s.curRow → s'.curCol = s.curCol → s'.curComp = s.curComp →
    (∀ a, a % 3 = s.curComp.toNat → Memory.read s'.grid a = Memory.read s.grid a) →
    exec i s = .next t → exec i s' = .next t' →
      Memory.read t'.grid (cellAddr s') = Memory.read t.grid (cellAddr s)

/-! ## Host interface (spec/41_host_interface.md) and registers (spec/10_state.md) -/

/-- R81: with no host operation to come the block takes no step of its own: the state stays (log entry 4). -/
def Obligations.BlockHasNoAutonomousStep : Prop :=
  ∀ s : State, s.script = [] → step s = .next s

/-- R26: the fields of STATUS in each phase; the codes are those of R17. -/
def Obligations.StatusFields : Prop :=
  ∀ p : Phase,
    (statusWord p).extractLsb' 0 3 = (match p with | .idle => 0 | .filter => 1 | .sample => 2 | .done => 3 | .error => 4) ∧
    (statusWord p).getLsbD 3 = (p == .filter || p == .sample) ∧ (statusWord p).getLsbD 4 = (p == .done) ∧
    (statusWord p).getLsbD 5 = (p == .error) ∧ (statusWord p).extractLsb' 6 26 = 0

/-- R83, with the map of R28: RD answers the register's value, zero-extended, 0 for CTRL and for the unmapped indices, in
every phase, and changes no state of the block. -/
def Obligations.RegisterRead : Prop :=
  ∀ (s : State) (i : BitVec 8) (rest : List HostOp), s.script = .rd i :: rest →
    ∃ v : Word, step s = .next { s with reply := some (.reg v), script := rest } ∧
      (i.toNat = 0 → v = 0) ∧ (i.toNat = 1 → v = statusWord s.phase) ∧ (i.toNat = 2 → v = s.width) ∧
      (i.toNat = 3 → v = s.height) ∧ (i.toNat = 4 → v = s.rowsDone) ∧ (i.toNat = 5 → v.toNat = s.errKind.toNat) ∧
      (i.toNat = 6 → v = s.errRow) ∧ (i.toNat = 7 → v.toNat = s.errByte.toNat) ∧ (i.toNat = 8 → v = s.curRow) ∧
      (i.toNat = 9 → v = s.curCol) ∧ (i.toNat = 10 → v.toNat = s.curComp.toNat) ∧
      (i.toNat = 11 → v.toNat = s.ftype.toNat) ∧ (12 ≤ i.toNat → v = 0)

/-- R84: WR of every index and value. CTRL with bit 0 set is START, with bit 0 clear no effect; WIDTH and HEIGHT are refused
while BUSY and written otherwise; every other index is ignored. -/
def Obligations.RegisterWrite : Prop :=
  ∀ (s : State) (i : BitVec 8) (v : Word) (rest : List HostOp), s.script = .wr i v :: rest →
    (i.toNat = 0 → v.getLsbD 0 = true → step s = hostStart s) ∧
    (i.toNat = 0 → v.getLsbD 0 = false → step s = .next { s with script := rest }) ∧
    (i.toNat = 2 ∨ i.toNat = 3 → s.phase = .filter ∨ s.phase = .sample → step s = .refused .configWriteWhileBusy) ∧
    (i.toNat = 2 → s.phase ≠ .filter → s.phase ≠ .sample → step s = .next { s with width := v, script := rest }) ∧
    (i.toNat = 3 → s.phase ≠ .filter → s.phase ≠ .sample → step s = .next { s with height := v, script := rest }) ∧
    (i.toNat = 1 ∨ 4 ≤ i.toNat → step s = .next { s with script := rest })

/-- R85: START is admitted exactly when the block is not BUSY, both sizes are at least 1 and the grid fits GRID_BYTES, computed
exactly; otherwise it is refused. -/
def Obligations.StartAdmission : Prop :=
  ∀ (s : State) (v : Word) (rest : List HostOp), s.script = .wr 0 v :: rest → v.getLsbD 0 = true →
    ((∃ t, step s = .next t) ↔
      s.phase ≠ .filter ∧ s.phase ≠ .sample ∧ 1 ≤ s.width.toNat ∧ 1 ≤ s.height.toNat ∧
        3 * s.width.toNat * s.height.toNat ≤ s.gridBytes) ∧
    ((¬ ∃ t, step s = .next t) → step s = .refused .startNotAdmitted)

/-- R86: an admitted START begins a session: every cell unwritten, the cursor, the selector, the count and the error record 0,
PHASE FILTER; WIDTH and HEIGHT keep their values and are the session's W and H. -/
def Obligations.StartBeginsASession : Prop :=
  ∀ (s : State) (v : Word) (rest : List HostOp), s.script = .wr 0 v :: rest → v.getLsbD 0 = true →
    s.phase ≠ .filter → s.phase ≠ .sample → 1 ≤ s.width.toNat → 1 ≤ s.height.toNat →
    3 * s.width.toNat * s.height.toNat ≤ s.gridBytes →
      ∃ t, step s = .next t ∧ (∀ a, Memory.read t.grid a = none) ∧ t.curRow = 0 ∧ t.curCol = 0 ∧ t.curComp = 0 ∧
        t.ftype = 0 ∧ t.rowsDone = 0 ∧ t.errKind = 0 ∧ t.errRow = 0 ∧ t.errByte = 0 ∧ t.phase = .filter ∧
        t.width = s.width ∧ t.height = s.height ∧ t.sessW = s.width ∧ t.sessH = s.height ∧
        t.gridBytes = s.gridBytes ∧ t.script = rest ∧ t.reply = s.reply

/-- R88: in IDLE, DONE and ERROR no byte is accepted and the block's state does not change; a host that waits stays at its push
for ever, one that moves on goes to its next operation (log entry 6). -/
def Obligations.PushNotAccepted : Prop :=
  ∀ (s : State) (f : Byte) (m : IfNotAccepted) (rest : List HostOp),
    s.phase = .idle ∨ s.phase = .done ∨ s.phase = .error → s.script = .push f m :: rest →
      (m = .waits → step s = .next s) ∧ (m = .movesOn → step s = .next { s with script := rest })

/-- R90: under the invariant GRD answers, in DONE and below 3WH, the byte of the cell whose row, column and component the rule
computes from the address, and is refused otherwise. W and H are the session's (log entry 3, DEDUCED). -/
def Obligations.GridReadIsHandedOffInDone : Prop :=
  ∀ (s : State) (addr : Nat) (rest : List HostOp), MachineInv s → s.script = .grd addr :: rest →
    (s.phase = .done → addr < 3 * s.sessW.toNat * s.sessH.toNat →
      ∃ v, Memory.read s.grid (gridAddr s.sessW.toNat (addr / (3 * s.sessW.toNat))
          (addr % (3 * s.sessW.toNat) / 3) (addr % 3)) = some v ∧ Memory.read s.grid addr = some v ∧
        step s = .next { s with reply := some (.byte v), script := rest }) ∧
    (s.phase ≠ .done ∨ 3 * s.sessW.toNat * s.sessH.toNat ≤ addr → step s = .refused .gridReadNotHandedOff)

/-- R90: once the grid is handed off, no operation but an admitted START or a RESET ends DONE or changes the answer to any grid
read, a write of WIDTH or HEIGHT included (log entry 3, DEDUCED). -/
def Obligations.HandedOffGridIsStable : Prop :=
  ∀ s t : State, s.phase = .done → step s = .next t →
    (∀ v rest, s.script = .wr 0 v :: rest → v.getLsbD 0 = false) → (∀ rest, s.script ≠ .reset :: rest) →
      t.phase = .done ∧ ∀ (addr : Nat) (u : State), step { s with script := [.grd addr] } = .next u →
        ∃ u', step { t with script := [.grd addr] } = .next u' ∧ u'.reply = u.reply

/-- R24: WIDTH and HEIGHT change by a host write outside BUSY and by RESET only, so they are fixed while BUSY; and a step in
BUSY keeps the session's W and H too, unless it is a RESET. -/
def Obligations.SizesAreFixedWhileBusy : Prop :=
  ∀ s t : State, step s = .next t → s.phase = .filter ∨ s.phase = .sample → (∀ rest, s.script ≠ .reset :: rest) →
    t.width = s.width ∧ t.height = s.height ∧ t.sessW = s.sessW ∧ t.sessH = s.sessH

/-- R43, R83, R90: no read has a side effect. RD and GRD change nothing but the host's side. -/
def Obligations.ReadsHaveNoSideEffect : Prop :=
  ∀ (s t : State) (rest : List HostOp), step s = .next t →
    (∃ i, s.script = .rd i :: rest) ∨ (∃ a, s.script = .grd a :: rest) →
      ∃ v, t = { s with reply := some v, script := rest }

/-- R98: the three refusals, by the conditions of R84, R85 and R90: the step refuses if and only if the host breaks that duty.
The bound 3WH of a grid read takes the session's W and H, which after a write of WIDTH or HEIGHT in DONE is the model's reading
of R24, R86 and R90 (log entry 3, DEDUCED). -/
def Obligations.RefusalsAreBrokenHostDuties : Prop :=
  ∀ (s : State) (r : Refusal), step s = .refused r ↔
    (r = .configWriteWhileBusy ∧ (s.phase = .filter ∨ s.phase = .sample) ∧
      ∃ i v rest, s.script = .wr i v :: rest ∧ (i.toNat = 2 ∨ i.toNat = 3)) ∨
    (r = .startNotAdmitted ∧
      ¬ (s.phase ≠ .filter ∧ s.phase ≠ .sample ∧ 1 ≤ s.width.toNat ∧ 1 ≤ s.height.toNat ∧
        3 * s.width.toNat * s.height.toNat ≤ s.gridBytes) ∧
      ∃ v rest, s.script = .wr 0 v :: rest ∧ v.getLsbD 0 = true) ∨
    (r = .gridReadNotHandedOff ∧
      ∃ addr rest, s.script = .grd addr :: rest ∧
        (s.phase ≠ .done ∨ 3 * s.sessW.toNat * s.sessH.toNat ≤ addr))

/-! ## Errors, selector, count (spec/60_exceptions.md, spec/10_state.md) -/

/-- R95: error entry is precise. Under the invariant, a bad filter-type byte writes the error record and PHASE and nothing
else: the grid keeps rows `0..row-1` fully written and no cell of row `row` or a later one, the cursor, FTYPE and ROWS_DONE
keep their values. -/
def Obligations.ErrorEntryIsPrecise : Prop :=
  ∀ (s : State) (f : Byte) (m : IfNotAccepted) (rest : List HostOp),
    MachineInv s → s.phase = .filter → s.script = .push f m :: rest → 5 ≤ f.toNat →
      ∃ t : State, step s = .next t ∧
        t = { s with errKind := 1, errRow := s.curRow, errByte := f, phase := .error, script := rest } ∧
        t.curCol = 0 ∧ t.curComp = 0 ∧
        ∀ r c k, c < s.width.toNat → k < 3 →
          ((Memory.read t.grid (gridAddr s.width.toNat r c k)).isSome = true ↔ r < t.errRow.toNat)

/-- R96: after error entry, under the invariant, `ERR_ROW * (1 + 3W)`, computed from the two registers, is the stream offset
the bad filter-type byte was consumed at. -/
def Obligations.OffendingOffsetNamesTheBadByte : Prop :=
  ∀ (s : State) (f : Byte) (m : IfNotAccepted) (rest : List HostOp),
    MachineInv s → s.phase = .filter → s.script = .push f m :: rest → 5 ≤ f.toNat →
      ∃ t, step s = .next t ∧ t.phase = .error ∧ streamOffset s = some (t.errRow.toNat * (1 + 3 * t.width.toNat)) ∧
        offendingOffset t = t.errRow.toNat * (1 + 3 * t.width.toNat)

/-- R97: ERROR and the error record persist over every step but an admitted START and a RESET, and both clear the record. -/
def Obligations.ErrorPersistsUntilStartOrReset : Prop :=
  ∀ s t : State, s.phase = .error → step s = .next t →
    (t.phase = .error ∧ t.errKind = s.errKind ∧ t.errRow = s.errRow ∧ t.errByte = s.errByte) ∨
    (((t.phase = .filter ∧ ∃ v rest, s.script = .wr 0 v :: rest ∧ v.getLsbD 0 = true) ∨
        (t.phase = .idle ∧ ∃ rest, s.script = .reset :: rest)) ∧
      t.errKind = 0 ∧ t.errRow = 0 ∧ t.errByte = 0)

/-- R22: FTYPE changes only by a valid filter-type byte, which it then holds, and to 0 by an admitted START and by RESET. -/
def Obligations.SelectorChangesOnlyOnItsEvents : Prop :=
  ∀ s t : State, step s = .next t →
    t.ftype = s.ftype ∨
    (s.phase = .filter ∧ ∃ f m rest, s.script = .push f m :: rest ∧ f.toNat ≤ 4 ∧ t.ftype.toNat = f.toNat) ∨
    (t.ftype = 0 ∧ ((∃ v rest, s.script = .wr 0 v :: rest ∧ v.getLsbD 0 = true) ∨ ∃ rest, s.script = .reset :: rest))

/-- R23, R103: ROWS_DONE grows by 1 at the sample step that writes the last component of a row, is 0 after an admitted START
and a RESET, and changes by nothing else; under the invariant it never exceeds the session's H. -/
def Obligations.RowsDoneCountsFinishedRows : Prop :=
  ∀ s t : State, step s = .next t →
    (t.rowsDone = s.rowsDone ∨
      (t.rowsDone = s.rowsDone + 1 ∧ s.phase = .sample ∧ s.curComp = 2 ∧ s.curCol.toNat + 1 = s.width.toNat ∧
        ∃ f m rest, s.script = .push f m :: rest) ∨
      (t.rowsDone = 0 ∧
        ((∃ v rest, s.script = .wr 0 v :: rest ∧ v.getLsbD 0 = true) ∨ ∃ rest, s.script = .reset :: rest))) ∧
    (s.phase = .sample → s.curComp = 2 → s.curCol.toNat + 1 = s.width.toNat →
      (∃ f m rest, s.script = .push f m :: rest) → t.rowsDone = s.rowsDone + 1) ∧
    ((∃ v rest, s.script = .wr 0 v :: rest ∧ v.getLsbD 0 = true) ∨ (∃ rest, s.script = .reset :: rest) →
      t.rowsDone = 0) ∧
    (MachineInv s → t.rowsDone.toNat ≤ t.sessH.toNat)

/-- R91, R30, R17: every change of PHASE. A session ends only in DONE, by the last sample byte, or in ERROR, by an illegal
filter-type byte; START and RESET begin and discard it; no other step changes PHASE. -/
def Obligations.PhaseChangesOnlyOnItsEvents : Prop :=
  ∀ s t : State, step s = .next t → t.phase ≠ s.phase →
    (s.phase = .filter ∧ t.phase = .sample ∧ ∃ f m rest, s.script = .push f m :: rest ∧ f.toNat ≤ 4) ∨
    (s.phase = .filter ∧ t.phase = .error ∧ ∃ f m rest, s.script = .push f m :: rest ∧ 5 ≤ f.toNat) ∨
    (s.phase = .sample ∧ t.phase = .filter ∧ s.curComp = 2 ∧ s.curCol.toNat + 1 = s.width.toNat ∧
      s.curRow.toNat + 1 < s.height.toNat ∧ ∃ f m rest, s.script = .push f m :: rest) ∨
    (s.phase = .sample ∧ t.phase = .done ∧ s.curComp = 2 ∧ s.curCol.toNat + 1 = s.width.toNat ∧
      s.curRow.toNat + 1 = s.height.toNat ∧ ∃ f m rest, s.script = .push f m :: rest) ∨
    (s.phase ≠ .sample ∧ t.phase = .filter ∧ ∃ v rest, s.script = .wr 0 v :: rest ∧ v.getLsbD 0 = true) ∨
    (t.phase = .idle ∧ ∃ rest, s.script = .reset :: rest)

/-! ## Reset (spec/70_reset_and_hazards.md) -/

/-- R108: RESET in every phase sets the whole state of the block; STATUS then reads 0. -/
def Obligations.ResetOperation : Prop :=
  ∀ (s : State) (rest : List HostOp), s.script = .reset :: rest →
    ∃ t, step s = .next t ∧ t.phase = .idle ∧ t.width = 0 ∧ t.height = 0 ∧ t.curRow = 0 ∧ t.curCol = 0 ∧
      t.curComp = 0 ∧ t.ftype = 0 ∧ t.rowsDone = 0 ∧ t.errKind = 0 ∧ t.errRow = 0 ∧ t.errByte = 0 ∧
      (∀ a, Memory.read t.grid a = none) ∧ readReg t .status = 0 ∧ t.gridBytes = s.gridBytes ∧ t.script = rest

/-- R28, R108: the machine right after reset: IDLE, every register reads 0, no cell is written. -/
def Obligations.ResetState : Prop :=
  State.reset.phase = .idle ∧ (∀ i, readIndex State.reset i = 0) ∧ ∀ a, Memory.read State.reset.grid a = none

/-- R110 steps 2 and 3, with R84 to R86: from reset, writing WIDTH and HEIGHT and issuing START, when admitted, leads in three
steps to the first filter-type byte of a session of that size, in a state that meets the invariant. -/
def Obligations.ConfigureAndStartFromReset : Prop :=
  ∀ (w h : Word) (g : Nat) (rest : List HostOp), 1 ≤ w.toNat → 1 ≤ h.toNat → 3 * w.toNat * h.toNat ≤ g →
    ∃ t : State,
      Host.Core.run Sys2Proof.core 3
        { State.reset with gridBytes := g, script := .wr 2 w :: .wr 3 h :: .wr 0 1 :: rest } = .next t ∧
      MachineInv t ∧ streamOffset t = some 0 ∧ t.sessW = w ∧ t.sessH = h ∧ t.script = rest

/-! ## The machine as a whole (spec/10_state.md section 4) -/

/-- The invariant holds at reset. -/
def Obligations.InvariantHoldsAtReset : Prop := MachineInv State.reset

/-- R34: every step that goes on, from any state that meets the invariant, leads to a state that meets it. -/
def Obligations.InvariantIsKeptByEveryStep : Prop :=
  ∀ s t : State, MachineInv s → step s = .next t → MachineInv t

/-- R34 (I3, I5, I6), in the rule's own terms, of every state that meets the invariant: in BUSY a cell is written exactly when
its stream offset is below the cursor's; in DONE every cell is; in ERROR exactly the cells of the rows before ERR_ROW; and the
grid is in canonical form. -/
def Obligations.WrittenCellsAreThoseBeforeTheCursor : Prop :=
  ∀ s : State, MachineInv s → Memory.wf s.grid ∧
    ∀ r c k, r < s.sessH.toNat → c < s.sessW.toNat → k < 3 →
      (∀ n, streamOffset s = some n →
        ((Memory.read s.grid (gridAddr s.sessW.toNat r c k)).isSome = true ↔ cellOffset s.sessW.toNat r c k < n)) ∧
      (s.phase = .done → (Memory.read s.grid (gridAddr s.sessW.toNat r c k)).isSome = true) ∧
      (s.phase = .error →
        ((Memory.read s.grid (gridAddr s.sessW.toNat r c k)).isSome = true ↔ r < s.errRow.toNat))

/-- R63, R37, R38, R66: from a state that meets the invariant no step reaches a model fault, and none runs into an instruction
without a meaning. -/
def Obligations.NoModelFaultIsReachable : Prop :=
  ∀ s : State, MachineInv s → (∀ e, step s ≠ .fault e) ∧ ∀ name, step s ≠ .refused (.notModelled name)

/-- R21: under the invariant every accepted byte is consumed and advances the stream offset by exactly 1, or is the illegal
filter-type byte that ends the session, or is the last byte, at offset `H*(1+3W) - 1`, after which PHASE is DONE. -/
def Obligations.AcceptedByteAdvancesTheOffset : Prop :=
  ∀ (s : State) (n : Nat) (f : Byte) (m : IfNotAccepted) (rest : List HostOp),
    MachineInv s → streamOffset s = some n → s.script = .push f m :: rest →
      n < s.sessH.toNat * (1 + 3 * s.sessW.toNat) ∧
      ∃ t, step s = .next t ∧ t.script = rest ∧
        (streamOffset t = some (n + 1) ∨ (t.phase = .error ∧ s.phase = .filter ∧ 5 ≤ f.toNat) ∨
          (t.phase = .done ∧ n + 1 = s.sessH.toNat * (1 + 3 * s.sessW.toNat)))

/-- R111: a session that gets its full stream ends, in DONE or ERROR, after at most `H*(1+3W)` accepted pushes. -/
def Obligations.SessionEndsWithinItsStream : Prop :=
  ∀ (s : State) (bytes : List Byte) (rest : List HostOp),
    MachineInv s → streamOffset s = some 0 → bytes.length = s.sessH.toNat * (1 + 3 * s.sessW.toNat) →
    s.script = pushes bytes ++ rest →
      ∃ n t, n ≤ s.sessH.toNat * (1 + 3 * s.sessW.toNat) ∧ Host.Core.run Sys2Proof.core n s = .next t ∧
        (t.phase = .done ∨ t.phase = .error)

/-- R4, R69, R70, R112: the reconstruction pass as a whole. From the start of a session, pushing the encoding of any stream of
H well-formed scanlines ends in DONE after exactly `H*(1+3W)` steps, with every byte consumed, ROWS_DONE = H, and every cell
of the grid the reconstruction of its filtered byte from its neighbours in that same grid by its row's filter type. -/
def Obligations.FullStreamReconstructsTheImage : Prop :=
  ∀ (s : State) (rows : List Scanline) (rest : List HostOp),
    MachineInv s → streamOffset s = some 0 → streamWf s.sessW.toNat s.sessH.toNat rows = true →
    s.script = pushes (encodeStream rows) ++ rest →
      ∃ t : State, Host.Core.run Sys2Proof.core (s.sessH.toNat * (1 + 3 * s.sessW.toNat)) s = .next t ∧
        t.phase = .done ∧ t.script = rest ∧ t.rowsDone = s.sessH ∧ t.sessW = s.sessW ∧ t.sessH = s.sessH ∧
        ∀ (r c k : Nat) (l : Scanline), rows[r]? = some l → c < s.sessW.toNat → k < 3 →
          CellReconstructed t.grid s.sessW.toNat l r c k
end

