-- ==== Sys2Proof/Laws/Decode.lean ====
section
/-! SUPPORT. The decoder on the filter-type byte. -/

namespace Sys2Proof

/-- The decoder inverts the opcode map: it answers `i` for the byte of `i` and for no other byte. -/
theorem decodeFT_eq_ok {f : Byte} {i : Instr} : decodeFT f = .ok i ↔ f = encodeFT i := by
  unfold decodeFT
  split_ifs with h0 h1 h2 h3 h4 <;> cases i <;> simp_all [encodeFT]

theorem encodeFT_le (i : Instr) : (encodeFT i).toNat ≤ 4 := by
  cases i <;> decide

/-- The bytes 0..4 decode. -/
theorem decodeFT_of_le {f : Byte} (h : f.toNat ≤ 4) : ∃ i, decodeFT f = .ok i := by
  have : f = 0#8 ∨ f = 1#8 ∨ f = 2#8 ∨ f = 3#8 ∨ f = 4#8 := by
    simp only [← BitVec.toNat_inj, BitVec.toNat_ofNat]; omega
  rcases this with rfl | rfl | rfl | rfl | rfl
  · exact ⟨.none, rfl⟩
  · exact ⟨.sub, rfl⟩
  · exact ⟨.up, rfl⟩
  · exact ⟨.avg, rfl⟩
  · exact ⟨.paeth, rfl⟩

/-- The bytes 5..255 are rejected by name (R59). -/
theorem decodeFT_of_gt {f : Byte} (h : 4 < f.toNat) : decodeFT f = .error (.badFilterType f) := by
  unfold decodeFT
  split_ifs with h0 h1 h2 h3 h4
  all_goals first | rfl | (exfalso; subst f; revert h; decide)

namespace Machine

/-- A valid filter-type byte loads FTYPE with itself: the selector code is the byte (R68). -/
theorem selectorCode_setWidth (i : Instr) : (selectorCode i).setWidth 8 = encodeFT i := by
  cases i <;> rfl

theorem selectorCode_le (i : Instr) : (selectorCode i).toNat ≤ 4 := by
  cases i <;> decide

/-- The selector's values 0..4 select an instruction (R66). -/
theorem exists_selectorCode {q : BitVec 3} (h : q.toNat ≤ 4) : ∃ i, q = selectorCode i := by
  have : q = 0#3 ∨ q = 1#3 ∨ q = 2#3 ∨ q = 3#3 ∨ q = 4#3 := by
    simp only [← BitVec.toNat_inj, BitVec.toNat_ofNat]; omega
  rcases this with rfl | rfl | rfl | rfl | rfl
  · exact ⟨.none, rfl⟩
  · exact ⟨.sub, rfl⟩
  · exact ⟨.up, rfl⟩
  · exact ⟨.avg, rfl⟩
  · exact ⟨.paeth, rfl⟩

end Machine

end Sys2Proof
end

