-- ==== Sys2Proof/Laws/State.lean ====
section
/-! SUPPORT. One lemma per field per update of the state, so that no later proof unfolds a record update. -/

namespace Sys2Proof.Machine

/-! ## The host's operation is done -/

@[simp] theorem opDone_phase (s : State) : (opDone s).phase = s.phase := rfl
@[simp] theorem opDone_width (s : State) : (opDone s).width = s.width := rfl
@[simp] theorem opDone_height (s : State) : (opDone s).height = s.height := rfl
@[simp] theorem opDone_curRow (s : State) : (opDone s).curRow = s.curRow := rfl
@[simp] theorem opDone_curCol (s : State) : (opDone s).curCol = s.curCol := rfl
@[simp] theorem opDone_curComp (s : State) : (opDone s).curComp = s.curComp := rfl
@[simp] theorem opDone_ftype (s : State) : (opDone s).ftype = s.ftype := rfl
@[simp] theorem opDone_rowsDone (s : State) : (opDone s).rowsDone = s.rowsDone := rfl
@[simp] theorem opDone_errKind (s : State) : (opDone s).errKind = s.errKind := rfl
@[simp] theorem opDone_errRow (s : State) : (opDone s).errRow = s.errRow := rfl
@[simp] theorem opDone_errByte (s : State) : (opDone s).errByte = s.errByte := rfl
@[simp] theorem opDone_grid (s : State) : (opDone s).grid = s.grid := rfl
@[simp] theorem opDone_sessW (s : State) : (opDone s).sessW = s.sessW := rfl
@[simp] theorem opDone_sessH (s : State) : (opDone s).sessH = s.sessH := rfl
@[simp] theorem opDone_gridBytes (s : State) : (opDone s).gridBytes = s.gridBytes := rfl
@[simp] theorem opDone_script (s : State) : (opDone s).script = s.script.tail := rfl
@[simp] theorem opDone_reply (s : State) : (opDone s).reply = s.reply := rfl

/-! ## A read answers -/

@[simp] theorem answer_phase (v : Reply) (s : State) : (answer v s).phase = s.phase := rfl
@[simp] theorem answer_width (v : Reply) (s : State) : (answer v s).width = s.width := rfl
@[simp] theorem answer_height (v : Reply) (s : State) : (answer v s).height = s.height := rfl
@[simp] theorem answer_curRow (v : Reply) (s : State) : (answer v s).curRow = s.curRow := rfl
@[simp] theorem answer_curCol (v : Reply) (s : State) : (answer v s).curCol = s.curCol := rfl
@[simp] theorem answer_curComp (v : Reply) (s : State) : (answer v s).curComp = s.curComp := rfl
@[simp] theorem answer_ftype (v : Reply) (s : State) : (answer v s).ftype = s.ftype := rfl
@[simp] theorem answer_rowsDone (v : Reply) (s : State) : (answer v s).rowsDone = s.rowsDone := rfl
@[simp] theorem answer_errKind (v : Reply) (s : State) : (answer v s).errKind = s.errKind := rfl
@[simp] theorem answer_errRow (v : Reply) (s : State) : (answer v s).errRow = s.errRow := rfl
@[simp] theorem answer_errByte (v : Reply) (s : State) : (answer v s).errByte = s.errByte := rfl
@[simp] theorem answer_grid (v : Reply) (s : State) : (answer v s).grid = s.grid := rfl
@[simp] theorem answer_sessW (v : Reply) (s : State) : (answer v s).sessW = s.sessW := rfl
@[simp] theorem answer_sessH (v : Reply) (s : State) : (answer v s).sessH = s.sessH := rfl
@[simp] theorem answer_gridBytes (v : Reply) (s : State) : (answer v s).gridBytes = s.gridBytes := rfl
@[simp] theorem answer_script (v : Reply) (s : State) : (answer v s).script = s.script := rfl
@[simp] theorem answer_reply (v : Reply) (s : State) : (answer v s).reply = some v := rfl

/-! ## A filter-type byte loads the selector -/

@[simp] theorem selectRow_phase (q : BitVec 3) (s : State) : (selectRow q s).phase = .sample := rfl
@[simp] theorem selectRow_width (q : BitVec 3) (s : State) : (selectRow q s).width = s.width := rfl
@[simp] theorem selectRow_height (q : BitVec 3) (s : State) : (selectRow q s).height = s.height := rfl
@[simp] theorem selectRow_curRow (q : BitVec 3) (s : State) : (selectRow q s).curRow = s.curRow := rfl
@[simp] theorem selectRow_curCol (q : BitVec 3) (s : State) : (selectRow q s).curCol = s.curCol := rfl
@[simp] theorem selectRow_curComp (q : BitVec 3) (s : State) : (selectRow q s).curComp = s.curComp := rfl
@[simp] theorem selectRow_ftype (q : BitVec 3) (s : State) : (selectRow q s).ftype = q := rfl
@[simp] theorem selectRow_rowsDone (q : BitVec 3) (s : State) : (selectRow q s).rowsDone = s.rowsDone := rfl
@[simp] theorem selectRow_errKind (q : BitVec 3) (s : State) : (selectRow q s).errKind = s.errKind := rfl
@[simp] theorem selectRow_errRow (q : BitVec 3) (s : State) : (selectRow q s).errRow = s.errRow := rfl
@[simp] theorem selectRow_errByte (q : BitVec 3) (s : State) : (selectRow q s).errByte = s.errByte := rfl
@[simp] theorem selectRow_grid (q : BitVec 3) (s : State) : (selectRow q s).grid = s.grid := rfl
@[simp] theorem selectRow_sessW (q : BitVec 3) (s : State) : (selectRow q s).sessW = s.sessW := rfl
@[simp] theorem selectRow_sessH (q : BitVec 3) (s : State) : (selectRow q s).sessH = s.sessH := rfl
@[simp] theorem selectRow_gridBytes (q : BitVec 3) (s : State) : (selectRow q s).gridBytes = s.gridBytes := rfl
@[simp] theorem selectRow_script (q : BitVec 3) (s : State) : (selectRow q s).script = s.script := rfl
@[simp] theorem selectRow_reply (q : BitVec 3) (s : State) : (selectRow q s).reply = s.reply := rfl

/-! ## Error entry -/

@[simp] theorem raiseFormatError_phase (q : BitVec 4) (r : Word) (f : Byte) (s : State) : (raiseFormatError q r f s).phase = .error := rfl
@[simp] theorem raiseFormatError_width (q : BitVec 4) (r : Word) (f : Byte) (s : State) : (raiseFormatError q r f s).width = s.width := rfl
@[simp] theorem raiseFormatError_height (q : BitVec 4) (r : Word) (f : Byte) (s : State) : (raiseFormatError q r f s).height = s.height := rfl
@[simp] theorem raiseFormatError_curRow (q : BitVec 4) (r : Word) (f : Byte) (s : State) : (raiseFormatError q r f s).curRow = s.curRow := rfl
@[simp] theorem raiseFormatError_curCol (q : BitVec 4) (r : Word) (f : Byte) (s : State) : (raiseFormatError q r f s).curCol = s.curCol := rfl
@[simp] theorem raiseFormatError_curComp (q : BitVec 4) (r : Word) (f : Byte) (s : State) : (raiseFormatError q r f s).curComp = s.curComp := rfl
@[simp] theorem raiseFormatError_ftype (q : BitVec 4) (r : Word) (f : Byte) (s : State) : (raiseFormatError q r f s).ftype = s.ftype := rfl
@[simp] theorem raiseFormatError_rowsDone (q : BitVec 4) (r : Word) (f : Byte) (s : State) : (raiseFormatError q r f s).rowsDone = s.rowsDone := rfl
@[simp] theorem raiseFormatError_errKind (q : BitVec 4) (r : Word) (f : Byte) (s : State) : (raiseFormatError q r f s).errKind = q := rfl
@[simp] theorem raiseFormatError_errRow (q : BitVec 4) (r : Word) (f : Byte) (s : State) : (raiseFormatError q r f s).errRow = r := rfl
@[simp] theorem raiseFormatError_errByte (q : BitVec 4) (r : Word) (f : Byte) (s : State) : (raiseFormatError q r f s).errByte = f := rfl
@[simp] theorem raiseFormatError_grid (q : BitVec 4) (r : Word) (f : Byte) (s : State) : (raiseFormatError q r f s).grid = s.grid := rfl
@[simp] theorem raiseFormatError_sessW (q : BitVec 4) (r : Word) (f : Byte) (s : State) : (raiseFormatError q r f s).sessW = s.sessW := rfl
@[simp] theorem raiseFormatError_sessH (q : BitVec 4) (r : Word) (f : Byte) (s : State) : (raiseFormatError q r f s).sessH = s.sessH := rfl
@[simp] theorem raiseFormatError_gridBytes (q : BitVec 4) (r : Word) (f : Byte) (s : State) : (raiseFormatError q r f s).gridBytes = s.gridBytes := rfl
@[simp] theorem raiseFormatError_script (q : BitVec 4) (r : Word) (f : Byte) (s : State) : (raiseFormatError q r f s).script = s.script := rfl
@[simp] theorem raiseFormatError_reply (q : BitVec 4) (r : Word) (f : Byte) (s : State) : (raiseFormatError q r f s).reply = s.reply := rfl

/-! ## START -/

@[simp] theorem beginSession_phase (s : State) : (beginSession s).phase = .filter := rfl
@[simp] theorem beginSession_width (s : State) : (beginSession s).width = s.width := rfl
@[simp] theorem beginSession_height (s : State) : (beginSession s).height = s.height := rfl
@[simp] theorem beginSession_curRow (s : State) : (beginSession s).curRow = 0 := rfl
@[simp] theorem beginSession_curCol (s : State) : (beginSession s).curCol = 0 := rfl
@[simp] theorem beginSession_curComp (s : State) : (beginSession s).curComp = 0 := rfl
@[simp] theorem beginSession_ftype (s : State) : (beginSession s).ftype = 0 := rfl
@[simp] theorem beginSession_rowsDone (s : State) : (beginSession s).rowsDone = 0 := rfl
@[simp] theorem beginSession_errKind (s : State) : (beginSession s).errKind = 0 := rfl
@[simp] theorem beginSession_errRow (s : State) : (beginSession s).errRow = 0 := rfl
@[simp] theorem beginSession_errByte (s : State) : (beginSession s).errByte = 0 := rfl
@[simp] theorem beginSession_grid (s : State) : (beginSession s).grid = [] := rfl
@[simp] theorem beginSession_sessW (s : State) : (beginSession s).sessW = s.width := rfl
@[simp] theorem beginSession_sessH (s : State) : (beginSession s).sessH = s.height := rfl
@[simp] theorem beginSession_gridBytes (s : State) : (beginSession s).gridBytes = s.gridBytes := rfl
@[simp] theorem beginSession_script (s : State) : (beginSession s).script = s.script := rfl
@[simp] theorem beginSession_reply (s : State) : (beginSession s).reply = s.reply := rfl

/-! ## RESET -/

@[simp] theorem resetBlock_phase (s : State) : (resetBlock s).phase = .idle := rfl
@[simp] theorem resetBlock_width (s : State) : (resetBlock s).width = 0 := rfl
@[simp] theorem resetBlock_height (s : State) : (resetBlock s).height = 0 := rfl
@[simp] theorem resetBlock_curRow (s : State) : (resetBlock s).curRow = 0 := rfl
@[simp] theorem resetBlock_curCol (s : State) : (resetBlock s).curCol = 0 := rfl
@[simp] theorem resetBlock_curComp (s : State) : (resetBlock s).curComp = 0 := rfl
@[simp] theorem resetBlock_ftype (s : State) : (resetBlock s).ftype = 0 := rfl
@[simp] theorem resetBlock_rowsDone (s : State) : (resetBlock s).rowsDone = 0 := rfl
@[simp] theorem resetBlock_errKind (s : State) : (resetBlock s).errKind = 0 := rfl
@[simp] theorem resetBlock_errRow (s : State) : (resetBlock s).errRow = 0 := rfl
@[simp] theorem resetBlock_errByte (s : State) : (resetBlock s).errByte = 0 := rfl
@[simp] theorem resetBlock_grid (s : State) : (resetBlock s).grid = [] := rfl
@[simp] theorem resetBlock_sessW (s : State) : (resetBlock s).sessW = 0 := rfl
@[simp] theorem resetBlock_sessH (s : State) : (resetBlock s).sessH = 0 := rfl
@[simp] theorem resetBlock_gridBytes (s : State) : (resetBlock s).gridBytes = s.gridBytes := rfl
@[simp] theorem resetBlock_script (s : State) : (resetBlock s).script = s.script := rfl
@[simp] theorem resetBlock_reply (s : State) : (resetBlock s).reply = s.reply := rfl

/-! ## The cursor advance: what it leaves alone -/

@[simp] theorem advance_width (s : State) : (advance s).width = s.width := by
  unfold advance; split; · rfl
  split <;> rfl
@[simp] theorem advance_height (s : State) : (advance s).height = s.height := by
  unfold advance; split; · rfl
  split <;> rfl
@[simp] theorem advance_ftype (s : State) : (advance s).ftype = s.ftype := by
  unfold advance; split; · rfl
  split <;> rfl
@[simp] theorem advance_errKind (s : State) : (advance s).errKind = s.errKind := by
  unfold advance; split; · rfl
  split <;> rfl
@[simp] theorem advance_errRow (s : State) : (advance s).errRow = s.errRow := by
  unfold advance; split; · rfl
  split <;> rfl
@[simp] theorem advance_errByte (s : State) : (advance s).errByte = s.errByte := by
  unfold advance; split; · rfl
  split <;> rfl
@[simp] theorem advance_grid (s : State) : (advance s).grid = s.grid := by
  unfold advance; split; · rfl
  split <;> rfl
@[simp] theorem advance_sessW (s : State) : (advance s).sessW = s.sessW := by
  unfold advance; split; · rfl
  split <;> rfl
@[simp] theorem advance_sessH (s : State) : (advance s).sessH = s.sessH := by
  unfold advance; split; · rfl
  split <;> rfl
@[simp] theorem advance_gridBytes (s : State) : (advance s).gridBytes = s.gridBytes := by
  unfold advance; split; · rfl
  split <;> rfl
@[simp] theorem advance_script (s : State) : (advance s).script = s.script := by
  unfold advance; split; · rfl
  split <;> rfl
@[simp] theorem advance_reply (s : State) : (advance s).reply = s.reply := by
  unfold advance; split; · rfl
  split <;> rfl

/-! ## A byte that is not accepted: only the host's script may change -/

@[simp] theorem notAccepted_phase (s : State) : (notAccepted s).phase = s.phase := by
  unfold notAccepted; split <;> rfl
@[simp] theorem notAccepted_width (s : State) : (notAccepted s).width = s.width := by
  unfold notAccepted; split <;> rfl
@[simp] theorem notAccepted_height (s : State) : (notAccepted s).height = s.height := by
  unfold notAccepted; split <;> rfl
@[simp] theorem notAccepted_curRow (s : State) : (notAccepted s).curRow = s.curRow := by
  unfold notAccepted; split <;> rfl
@[simp] theorem notAccepted_curCol (s : State) : (notAccepted s).curCol = s.curCol := by
  unfold notAccepted; split <;> rfl
@[simp] theorem notAccepted_curComp (s : State) : (notAccepted s).curComp = s.curComp := by
  unfold notAccepted; split <;> rfl
@[simp] theorem notAccepted_ftype (s : State) : (notAccepted s).ftype = s.ftype := by
  unfold notAccepted; split <;> rfl
@[simp] theorem notAccepted_rowsDone (s : State) : (notAccepted s).rowsDone = s.rowsDone := by
  unfold notAccepted; split <;> rfl
@[simp] theorem notAccepted_errKind (s : State) : (notAccepted s).errKind = s.errKind := by
  unfold notAccepted; split <;> rfl
@[simp] theorem notAccepted_errRow (s : State) : (notAccepted s).errRow = s.errRow := by
  unfold notAccepted; split <;> rfl
@[simp] theorem notAccepted_errByte (s : State) : (notAccepted s).errByte = s.errByte := by
  unfold notAccepted; split <;> rfl
@[simp] theorem notAccepted_grid (s : State) : (notAccepted s).grid = s.grid := by
  unfold notAccepted; split <;> rfl
@[simp] theorem notAccepted_sessW (s : State) : (notAccepted s).sessW = s.sessW := by
  unfold notAccepted; split <;> rfl
@[simp] theorem notAccepted_sessH (s : State) : (notAccepted s).sessH = s.sessH := by
  unfold notAccepted; split <;> rfl
@[simp] theorem notAccepted_gridBytes (s : State) : (notAccepted s).gridBytes = s.gridBytes := by
  unfold notAccepted; split <;> rfl
@[simp] theorem notAccepted_reply (s : State) : (notAccepted s).reply = s.reply := by
  unfold notAccepted; split <;> rfl

end Sys2Proof.Machine
end

