-- ==== Sys2Proof/Laws/Ops.lean ====
section
/-! SUPPORT. What the operations on the grid, the registers and the sequencer do, one lemma for each. -/

namespace Sys2Proof.Machine

/-! ## Grid bytes -/

@[simp] theorem Memory.read_nil (a : Nat) : Memory.read [] a = none := rfl

@[simp] theorem Memory.keys_nil : Memory.keys [] = [] := rfl

@[simp] theorem Memory.keys_cons (k : Nat) (u : Byte) (m : Memory) :
    Memory.keys ((k, u) :: m) = k :: Memory.keys m := rfl

theorem Memory.read_write_same (m : Memory) (a : Nat) (v : Byte) :
    Memory.read (Memory.write m a v) a = some v := by
  induction m with
  | nil => simp [Memory.write, Memory.read]
  | cons p m ih =>
    obtain ⟨k, u⟩ := p
    simp only [Memory.write]
    split_ifs with h1 h2
    · simp [Memory.read]
    · simp [Memory.read]
    · simp [Memory.read, h2, ih]

theorem Memory.read_write_other (m : Memory) (a b : Nat) (v : Byte) (h : b ≠ a) :
    Memory.read (Memory.write m a v) b = Memory.read m b := by
  induction m with
  | nil => simp [Memory.write, Memory.read, h]
  | cons p m ih =>
    obtain ⟨k, u⟩ := p
    simp only [Memory.write]
    split_ifs with h1 h2
    · simp [Memory.read, h]
    · subst h2; simp [Memory.read, h]
    · simp [Memory.read, ih]

/-- A cell is written exactly when its address is listed. -/
theorem Memory.read_isSome (m : Memory) (a : Nat) : (Memory.read m a).isSome = true ↔ a ∈ Memory.keys m := by
  induction m with
  | nil => simp
  | cons p m ih =>
    obtain ⟨k, u⟩ := p
    by_cases h : a = k <;> simp [Memory.read, h, ih]

theorem Memory.read_eq_none (m : Memory) (a : Nat) : Memory.read m a = none ↔ a ∉ Memory.keys m := by
  rw [← Memory.read_isSome]; simp

/-- The written addresses after a write: the old ones and the new one. -/
theorem Memory.mem_keys_write (m : Memory) (a b : Nat) (v : Byte) :
    b ∈ Memory.keys (Memory.write m a v) ↔ b = a ∨ b ∈ Memory.keys m := by
  rw [← Memory.read_isSome, ← Memory.read_isSome]
  by_cases h : b = a
  · subst h; simp [Memory.read_write_same]
  · simp [Memory.read_write_other m a b v h, h]

/-- A write keeps the canonical form. -/
theorem Memory.wf_write (m : Memory) (a : Nat) (v : Byte) (h : Memory.wf m) : Memory.wf (Memory.write m a v) := by
  induction m with
  | nil => simp [Memory.write, Memory.wf]
  | cons p m ih =>
    obtain ⟨k, u⟩ := p
    simp only [Memory.wf, Memory.keys_cons, List.pairwise_cons] at h ih ⊢
    simp only [Memory.write]
    split_ifs with h1 h2
    · simp only [Memory.keys_cons, List.pairwise_cons, List.mem_cons]
      refine ⟨?_, h⟩
      rintro b (rfl | hb)
      · exact h1
      · exact lt_trans h1 (h.1 b hb)
    · subst h2; simpa using h
    · simp only [Memory.keys_cons, List.pairwise_cons, Memory.mem_keys_write]
      refine ⟨?_, ih h.2⟩
      rintro b (rfl | hb)
      · omega
      · exact h.1 b hb

/-- A write above every written address appends it: the raster order is the address order (R39). -/
theorem Memory.keys_write_above (m : Memory) (a : Nat) (v : Byte) (h : ∀ b ∈ Memory.keys m, b < a) :
    Memory.keys (Memory.write m a v) = Memory.keys m ++ [a] := by
  induction m with
  | nil => rfl
  | cons p m ih =>
    obtain ⟨k, u⟩ := p
    simp only [Memory.keys_cons, List.mem_cons, forall_eq_or_imp] at h
    have h1 : ¬ a < k := by omega
    have h2 : ¬ a = k := by omega
    simp [Memory.write, h1, h2, ih h.2]

theorem Memory.wf_of_keys_range (m : Memory) (n : Nat) (h : Memory.keys m = List.range n) : Memory.wf m := by
  simpa only [Memory.wf, h] using List.pairwise_lt_range

/-- The grid at reset is in canonical form. -/
theorem reset_grid_wf : Memory.wf State.reset.grid := by decide

/-! ## GridRead and GridWrite -/

/-- GridRead answers exactly the written byte of a cell inside the image. -/
theorem gridRead_eq_ok {w h r c k : Nat} {m : Memory} {v : Byte} :
    gridRead w h m r c k = .ok v ↔ (r < h ∧ c < w ∧ k < 3) ∧ Memory.read m (gridAddr w r c k) = some v := by
  unfold gridRead
  split_ifs with hin
  · cases hr : Memory.read m (gridAddr w r c k) <;> simp [hin]
  · simp [hin]

/-- GridWrite answers exactly for an unwritten cell inside the image, and writes its one byte. -/
theorem gridWrite_eq_ok {w h r c k : Nat} {m g : Memory} {v : Byte} :
    gridWrite w h m r c k v = .ok g ↔
      (r < h ∧ c < w ∧ k < 3) ∧ Memory.read m (gridAddr w r c k) = none ∧
        g = Memory.write m (gridAddr w r c k) v := by
  unfold gridWrite
  split_ifs with hin
  · cases hr : Memory.read m (gridAddr w r c k) <;> simp [hin, eq_comm]
  · simp [hin]

/-! ## The address map -/

theorem gridAddr_mod (w r c : Nat) {k : Nat} (hk : k < 3) : gridAddr w r c k % 3 = k := by
  unfold gridAddr; omega

/-- Inside the image an address lies below 3WH (R39). -/
theorem gridAddr_lt {w h r c k : Nat} (hr : r < h) (hc : c < w) (hk : k < 3) : gridAddr w r c k < 3 * w * h := by
  unfold gridAddr
  have : (r + 1) * w ≤ h * w := Nat.mul_le_mul_right w hr
  nlinarith

/-- The decomposition GRD uses gives back the address (R90). -/
theorem gridAddr_decompose (w a : Nat) : gridAddr w (a / (3 * w)) (a % (3 * w) / 3) (a % 3) = a := by
  unfold gridAddr
  have h1 : a % (3 * w) % 3 = a % 3 := Nat.mod_mul_right_mod a 3 w
  have h2 := Nat.div_add_mod (a % (3 * w)) 3
  have h3 := Nat.div_add_mod a (3 * w)
  have h4 : 3 * w * (a / (3 * w)) = 3 * (a / (3 * w) * w) := by ring
  omega

/-- The decomposition GRD uses names a cell inside the image (R90). -/
theorem gridAddr_decompose_lt {w h a : Nat} (ha : a < 3 * w * h) :
    a / (3 * w) < h ∧ a % (3 * w) / 3 < w ∧ a % 3 < 3 := by
  have hw : 0 < 3 * w := by
    rcases Nat.eq_zero_or_pos (3 * w) with h0 | h0
    · simp [h0] at ha
    · exact h0
  refine ⟨Nat.div_lt_of_lt_mul ha, ?_, Nat.mod_lt _ (by omega)⟩
  have := Nat.mod_lt a hw
  omega

/-- One address names one cell (R39). -/
theorem gridAddr_inj {w r c k r' c' k' : Nat} (hc : c < w) (hk : k < 3) (hc' : c' < w) (hk' : k' < 3)
    (h : gridAddr w r c k = gridAddr w r' c' k') : r = r' ∧ c = c' ∧ k = k' := by
  unfold gridAddr at h
  have hk0 : k = k' := by omega
  have hrc : r * w + c = r' * w + c' := by omega
  have hw : 0 < w := by omega
  have hr : r = r' := by
    have e1 : (r * w + c) / w = r := by
      rw [Nat.add_comm, Nat.add_mul_div_right _ _ hw, Nat.div_eq_of_lt hc, Nat.zero_add]
    have e2 : (r' * w + c') / w = r' := by
      rw [Nat.add_comm, Nat.add_mul_div_right _ _ hw, Nat.div_eq_of_lt hc', Nat.zero_add]
    rw [← e1, ← e2, hrc]
  subst hr
  exact ⟨rfl, by omega, hk0⟩

/-- The address order is the raster order (R39): by row, then column, then component. -/
theorem gridAddr_lt_iff {w r c k r' c' k' : Nat} (hc : c < w) (hk : k < 3) (hc' : c' < w) (hk' : k' < 3) :
    gridAddr w r c k < gridAddr w r' c' k' ↔ r < r' ∨ (r = r' ∧ (c < c' ∨ (c = c' ∧ k < k'))) := by
  unfold gridAddr
  rcases Nat.lt_trichotomy r r' with h | h | h
  · have := Nat.mul_le_mul_right w (show r + 1 ≤ r' from h)
    rw [Nat.succ_mul] at this
    exact ⟨fun _ => .inl h, fun _ => by omega⟩
  · subst h; constructor <;> intro h <;> omega
  · have := Nat.mul_le_mul_right w (show r' + 1 ≤ r from h)
    rw [Nat.succ_mul] at this
    constructor <;> intro h' <;> omega

/-- The cells below the first address of a row are the cells of the rows before it. -/
theorem gridAddr_lt_row {w r c k r' : Nat} (hc : c < w) (hk : k < 3) :
    gridAddr w r c k < gridAddr w r' 0 0 ↔ r < r' := by
  rw [gridAddr_lt_iff hc hk (by omega) (by omega)]; omega

/-! ## The input port -/

theorem portByte_push {s : State} {b : Byte} {m : IfNotAccepted} {rest : List HostOp}
    (h : s.script = .push b m :: rest) : portByte s = some b := by
  simp [portByte, h]

theorem portByte_eq_some {s : State} {b : Byte} :
    portByte s = some b ↔ ∃ m rest, s.script = .push b m :: rest := by
  unfold portByte
  split
  · rename_i b' m rest hs
    simp only [Option.some.injEq, hs, List.cons.injEq, HostOp.push.injEq]
    exact ⟨fun h => ⟨m, rest, ⟨h, rfl⟩, rfl⟩, fun ⟨_, _, ⟨h, _⟩, _⟩ => h⟩
  · rename_i hs
    simp only [reduceCtorEq, false_iff]
    rintro ⟨m, rest, h⟩
    exact hs b m rest h

/-- A byte that is not accepted leaves the block alone; a host that moves on drops its push. -/
theorem notAccepted_eq {s : State} {b : Byte} {m : IfNotAccepted} {rest : List HostOp}
    (h : s.script = .push b m :: rest) :
    notAccepted s = { s with script := if m = .movesOn then rest else s.script } := by
  cases s; subst h; cases m <;> rfl

/-! ## The sequencer -/

theorem Phase.busy_iff (p : Phase) : p.busy = true ↔ p = .filter ∨ p = .sample := by
  cases p <;> simp [Phase.busy]

theorem Phase.not_busy_iff (p : Phase) : p.busy = false ↔ p ≠ .filter ∧ p ≠ .sample := by
  cases p <;> simp [Phase.busy]

theorem startAdmitted_iff (s : State) :
    startAdmitted s = true ↔
      s.phase.busy = false ∧ 1 ≤ s.width.toNat ∧ 1 ≤ s.height.toNat ∧
        3 * s.width.toNat * s.height.toNat ≤ s.gridBytes := by
  simp [startAdmitted, and_assoc]

/-- Everything a cursor advance can do (R70): inside a pixel, to the next pixel, or to the end of the row. -/
theorem advance_cases (s : State) :
    (s.curComp.toNat < 2 ∧ advance s = { s with curComp := s.curComp + 1 }) ∨
    (2 ≤ s.curComp.toNat ∧ s.curCol.toNat + 1 < s.width.toNat ∧
      advance s = { s with curComp := 0, curCol := s.curCol + 1 }) ∨
    (2 ≤ s.curComp.toNat ∧ s.width.toNat ≤ s.curCol.toNat + 1 ∧
      advance s =
        { s with
          curComp := 0, curCol := 0, rowsDone := s.rowsDone + 1, curRow := s.curRow + 1,
          phase := if s.curRow.toNat + 1 = s.height.toNat then .done else .filter }) := by
  unfold advance
  by_cases h1 : s.curComp.toNat < 2
  · exact .inl ⟨h1, if_pos h1⟩
  · rw [if_neg h1]
    by_cases h2 : s.curCol.toNat + 1 < s.width.toNat
    · exact .inr (.inl ⟨by omega, h2, if_pos h2⟩)
    · exact .inr (.inr ⟨by omega, by omega, if_neg h2⟩)

/-! ## The register map -/

theorem regOfIndex_ctrl {i : BitVec 8} : regOfIndex i = some .ctrl ↔ i = 0 := by
  constructor
  · intro h
    apply BitVec.eq_of_toNat_eq
    unfold regOfIndex at h
    split at h <;> simp_all
  · rintro rfl; rfl

theorem regOfIndex_width {i : BitVec 8} (h : regOfIndex i = some .width) : i.toNat = 2 := by
  unfold regOfIndex at h
  split at h <;> simp_all

theorem regOfIndex_height {i : BitVec 8} (h : regOfIndex i = some .height) : i.toNat = 3 := by
  unfold regOfIndex at h
  split at h <;> simp_all

theorem regOfIndex_of_unmapped {i : BitVec 8} (h : 12 ≤ i.toNat) : regOfIndex i = none := by
  unfold regOfIndex
  split <;> first | omega | rfl

end Sys2Proof.Machine
end

