-- ==== Sys2Proof/Laws/Operands.lean ====
section
/-! SUPPORT. What the boundary multiplexer, the predictors and the adder do. -/

namespace Sys2Proof.Machine

theorem muxInput_eq_ok {inside : Bool} {cell : Except Fault Byte} {v : Byte} :
    muxInput inside cell = .ok v ↔ if inside then cell = .ok v else v = 0 := by
  cases inside
  · simpa [muxInput] using eq_comm
  · simp [muxInput]

/-- The multiplexer answers exactly when all three of its inputs do. -/
theorem boundaryMux_eq_ok {s : State} {n : Neighbours} :
    boundaryMux s = .ok n ↔
      muxInput (decide (0 < s.curCol.toNat))
        (gridRead s.width.toNat s.height.toNat s.grid s.curRow.toNat (s.curCol.toNat - 1) s.curComp.toNat) = .ok n.a ∧
      muxInput (decide (0 < s.curRow.toNat))
        (gridRead s.width.toNat s.height.toNat s.grid (s.curRow.toNat - 1) s.curCol.toNat s.curComp.toNat) = .ok n.b ∧
      muxInput (decide (0 < s.curRow.toNat) && decide (0 < s.curCol.toNat))
        (gridRead s.width.toNat s.height.toNat s.grid (s.curRow.toNat - 1) (s.curCol.toNat - 1) s.curComp.toNat)
          = .ok n.c := by
  obtain ⟨a, b, c⟩ := n
  unfold boundaryMux
  dsimp only
  generalize muxInput (decide (0 < s.curCol.toNat)) _ = x
  generalize muxInput (decide (0 < s.curRow.toNat)) _ = y
  generalize muxInput (decide (0 < s.curRow.toNat) && decide (0 < s.curCol.toNat)) _ = z
  cases x <;> cases y <;> cases z <;> simp

/-- The adder's value (R67). -/
theorem modAdd_toNat (s p : Byte) : (modAdd s p).toNat = (s.toNat + p.toNat) % 256 := by
  simp [modAdd]

/-- The average's value: the exact sum is never reduced (R64). -/
theorem average_toNat (a b : Byte) : (average a b).toNat = (a.toNat + b.toNat) / 2 := by
  have := a.isLt
  have := b.isLt
  simp only [average, BitVec.toNat_ofNat]
  omega

end Sys2Proof.Machine
end

