-- ==== Sys2Proof/Laws/Exec.lean ====
section
/-! SUPPORT. What executing an instruction can do, said once for all five filter types. -/

namespace Sys2Proof.Machine

/-- The five meanings have one form. -/
theorem exec_eq (i : Instr) (s : State) : exec i s = rowStep (selectorCode i) (predictor i) s := by
  cases i <;> rfl

/-- In FILTER an instruction loads the selector (R68). -/
theorem exec_filter {i : Instr} {s : State} {b : Byte} (hp : s.phase = .filter) (hb : portByte s = some b) :
    exec i s = .next (opDone (selectRow (selectorCode i) s)) := by
  simp [exec_eq, rowStep, hp, hb]

/-- In SAMPLE an instruction takes a sample step (R69). -/
theorem exec_sample {i : Instr} {s : State} {b : Byte} (hp : s.phase = .sample) (hb : portByte s = some b) :
    exec i s = sampleStep (predictor i) b s := by
  simp [exec_eq, rowStep, hp, hb]

/-- Everything a sample step that goes on does (R69): the neighbours are readable, the cell lies inside the image and is
unwritten, it gets the sum, the cursor advances, the byte is consumed. -/
theorem sampleStep_eq_next {predict : Neighbours → Byte} {b : Byte} {s t : State} :
    sampleStep predict b s = .next t ↔
      ∃ n, boundaryMux s = .ok n ∧
        (s.curRow.toNat < s.height.toNat ∧ s.curCol.toNat < s.width.toNat ∧ s.curComp.toNat < 3) ∧
        Memory.read s.grid (gridAddr s.width.toNat s.curRow.toNat s.curCol.toNat s.curComp.toNat) = none ∧
        t = opDone (advance { s with
          grid := Memory.write s.grid (gridAddr s.width.toNat s.curRow.toNat s.curCol.toNat s.curComp.toNat)
            (modAdd b (predict n)) }) := by
  unfold sampleStep
  cases hm : boundaryMux s with
  | error e => simp
  | ok n =>
    dsimp only
    cases hg : gridWrite s.width.toNat s.height.toNat s.grid s.curRow.toNat s.curCol.toNat s.curComp.toNat
        (modAdd b (predict n)) with
    | error e =>
      simp only [reduceCtorEq, Except.ok.injEq, false_iff]
      rintro ⟨n', rfl, hin, hr, -⟩
      have := (gridWrite_eq_ok (v := modAdd b (predict n))).mpr ⟨hin, hr, rfl⟩
      rw [this] at hg
      cases hg
    | ok g =>
      obtain ⟨hin, hr, rfl⟩ := gridWrite_eq_ok.mp hg
      simp only [Host.Outcome.next.injEq, Except.ok.injEq]
      constructor
      · rintro rfl; exact ⟨n, rfl, hin, hr, rfl⟩
      · rintro ⟨n', rfl, -, -, rfl⟩; rfl

/-- A sample step never refuses. -/
theorem sampleStep_ne_refused {predict : Neighbours → Byte} {b : Byte} {s : State} {r : Refusal} :
    sampleStep predict b s ≠ .refused r := by
  unfold sampleStep
  split
  · simp
  · split <;> simp

/-- Everything an instruction that goes on can do. -/
theorem exec_cases {i : Instr} {s t : State} (h : exec i s = .next t) :
    (portByte s = none ∧ t = s) ∨
    (∃ b, portByte s = some b ∧ s.phase = .filter ∧ t = opDone (selectRow (selectorCode i) s)) ∨
    (∃ b, portByte s = some b ∧ s.phase = .sample ∧ sampleStep (predictor i) b s = .next t) ∨
    (∃ b, portByte s = some b ∧ s.phase.busy = false ∧ t = notAccepted s) := by
  rw [exec_eq] at h
  unfold rowStep at h
  split at h
  · rename_i hb; simp only [Host.Outcome.next.injEq] at h; exact .inl ⟨hb, h.symm⟩
  · rename_i b hb
    cases hp : s.phase <;> simp only [hp, Host.Outcome.next.injEq] at h
    · exact .inr (.inr (.inr ⟨b, hb, by simp [Phase.busy], h.symm⟩))
    · exact .inr (.inl ⟨b, hb, rfl, h.symm⟩)
    · exact .inr (.inr (.inl ⟨b, hb, rfl, h⟩))
    · exact .inr (.inr (.inr ⟨b, hb, by simp [Phase.busy], h.symm⟩))
    · exact .inr (.inr (.inr ⟨b, hb, by simp [Phase.busy], h.symm⟩))

end Sys2Proof.Machine
end

