-- ==== Sys2Proof/Laws/PerInstr.lean ====
section
/-! SUPPORT. A statement about every instruction as syntax: its filter-type byte is its own. -/

namespace Sys2Proof.Laws.OpcodeByte

/-- The byte of a filter type is valid (0..4), decodes to it, and no other byte does; the three bits FTYPE keeps of it give
the byte back (R22, R56, R58, R59). -/
def Statement (i : Instr) : Prop :=
  (encodeFT i).toNat ≤ 4 ∧ (∀ f, decodeFT f = .ok i ↔ f = encodeFT i) ∧
    (Machine.selectorCode i).setWidth 8 = encodeFT i

theorem none : Statement .none := ⟨by decide, fun _ => decodeFT_eq_ok, rfl⟩

theorem sub : Statement .sub := ⟨by decide, fun _ => decodeFT_eq_ok, rfl⟩

theorem up : Statement .up := ⟨by decide, fun _ => decodeFT_eq_ok, rfl⟩

theorem avg : Statement .avg := ⟨by decide, fun _ => decodeFT_eq_ok, rfl⟩

theorem paeth : Statement .paeth := ⟨by decide, fun _ => decodeFT_eq_ok, rfl⟩

end Sys2Proof.Laws.OpcodeByte
end

