-- ==== Sys2Proof/Laws/Step.lean ====
section
/-! SUPPORT. What a step can do, said once: one case per host operation and outcome. -/

namespace Sys2Proof.Machine

variable {s t : State} {rest : List HostOp}

/-! ## The step on each host operation -/

theorem step_silent (h : s.script = []) : step s = .next s := by
  simp [step, hostStep, h, hostSilent]

theorem step_rd {i : BitVec 8} (h : s.script = .rd i :: rest) :
    step s = .next { s with reply := some (.reg (readIndex s i)), script := rest } := by
  simp [step, hostStep, h, hostRead, opDone, answer]

theorem step_wr {i : BitVec 8} {v : Word} (h : s.script = .wr i v :: rest) : step s = hostWrite i v s := by
  simp [step, hostStep, h]

theorem step_push {f : Byte} {m : IfNotAccepted} (h : s.script = .push f m :: rest) : step s = hostPush f s := by
  simp [step, hostStep, h]

theorem step_grd {a : Nat} (h : s.script = .grd a :: rest) : step s = hostGridRead a s := by
  simp [step, hostStep, h]

theorem step_reset (h : s.script = .reset :: rest) :
    step s = .next { resetBlock s with script := rest } := by
  simp [step, hostStep, h, hostReset, opDone, resetBlock]

/-! ## A push in each phase -/

theorem hostPush_filter {f : Byte} {i : Instr} (hp : s.phase = .filter) (hf : decodeFT f = .ok i) :
    hostPush f s = exec i s := by
  simp [hostPush, hp, hf]

theorem hostPush_bad {f : Byte} (hp : s.phase = .filter) (hf : 4 < f.toNat) :
    hostPush f s = .next (opDone (raiseFormatError badFilterType s.curRow f s)) := by
  simp [hostPush, hp, decodeFT_of_gt hf]

theorem hostPush_sample {f : Byte} {i : Instr} (hp : s.phase = .sample) (hq : s.ftype = selectorCode i) :
    hostPush f s = exec i s := by
  simp only [hostPush, hp, hq, selectorCode_setWidth, decodeFT_eq_ok.mpr rfl]

theorem hostPush_sample_bad {f : Byte} (hp : s.phase = .sample) (hq : 4 < s.ftype.toNat) :
    hostPush f s = .fault .ftypeOutOfRange := by
  have h8 : 4 < (s.ftype.setWidth 8).toNat := by
    have := s.ftype.isLt
    simp only [BitVec.toNat_setWidth]
    omega
  simp [hostPush, hp, decodeFT_of_gt h8]

theorem hostPush_notBusy {f : Byte} (hp : s.phase.busy = false) : hostPush f s = .next (notAccepted s) := by
  cases h : s.phase <;> simp_all [hostPush, Phase.busy]

/-! ## Everything a step that goes on can do -/

/-- How a step can go on, by the host's next operation. -/
inductive StepCase (s t : State) : Prop where
  /-- The host does nothing. -/
  | silent (h : s.script = []) (ht : t = s)
  | rd (i : BitVec 8) (rest : List HostOp) (h : s.script = .rd i :: rest)
      (ht : t = { s with reply := some (.reg (readIndex s i)), script := rest })
  /-- A write that is ignored, or CTRL with bit 0 clear. -/
  | wrIgnored (i : BitVec 8) (v : Word) (rest : List HostOp) (h : s.script = .wr i v :: rest)
      (ht : t = { s with script := rest })
  | wrWidth (i : BitVec 8) (v : Word) (rest : List HostOp) (h : s.script = .wr i v :: rest)
      (hi : regOfIndex i = some .width) (hb : s.phase.busy = false) (ht : t = { s with width := v, script := rest })
  | wrHeight (i : BitVec 8) (v : Word) (rest : List HostOp) (h : s.script = .wr i v :: rest)
      (hi : regOfIndex i = some .height) (hb : s.phase.busy = false) (ht : t = { s with height := v, script := rest })
  | start (i : BitVec 8) (v : Word) (rest : List HostOp) (h : s.script = .wr i v :: rest)
      (hi : regOfIndex i = some .ctrl) (hv : v.getLsbD 0 = true) (ha : startAdmitted s = true)
      (ht : t = { beginSession s with script := rest })
  /-- A valid filter-type byte. -/
  | select (f : Byte) (m : IfNotAccepted) (rest : List HostOp) (h : s.script = .push f m :: rest)
      (hp : s.phase = .filter) (hf : f.toNat ≤ 4)
      (ht : t = { s with ftype := f.setWidth 3, phase := .sample, script := rest })
  /-- An illegal filter-type byte. -/
  | badFilter (f : Byte) (m : IfNotAccepted) (rest : List HostOp) (h : s.script = .push f m :: rest)
      (hp : s.phase = .filter) (hf : 4 < f.toNat)
      (ht : t = { raiseFormatError badFilterType s.curRow f s with script := rest })
  /-- A filtered byte. -/
  | sample (f : Byte) (m : IfNotAccepted) (rest : List HostOp) (i : Instr) (h : s.script = .push f m :: rest)
      (hp : s.phase = .sample) (hq : s.ftype = selectorCode i) (hs : sampleStep (predictor i) f s = .next t)
  /-- A byte that is not accepted. -/
  | rejected (f : Byte) (m : IfNotAccepted) (rest : List HostOp) (h : s.script = .push f m :: rest)
      (hb : s.phase.busy = false) (ht : t = notAccepted s)
  | grd (a : Nat) (v : Byte) (rest : List HostOp) (h : s.script = .grd a :: rest) (hp : s.phase = .done)
      (ha : a < 3 * s.sessW.toNat * s.sessH.toNat) (hv : Memory.read s.grid a = some v)
      (ht : t = { s with reply := some (.byte v), script := rest })
  | reset (rest : List HostOp) (h : s.script = .reset :: rest) (ht : t = { resetBlock s with script := rest })

theorem hostWrite_cases {i : BitVec 8} {v : Word} (h : s.script = .wr i v :: rest) (hs : hostWrite i v s = .next t) :
    StepCase s t := by
  have hd : ∀ u : State, u.script = s.script → opDone u = { u with script := rest } := by
    intro u hu; simp [opDone, hu, h]
  unfold hostWrite at hs
  split at hs
  · rename_i hi
    split_ifs at hs with hv
    · unfold hostStart at hs
      split_ifs at hs with ha
      simp only [Host.Outcome.next.injEq] at hs
      exact .start i v rest h hi hv ha (hs.symm.trans (hd _ rfl))
    · simp only [Host.Outcome.next.injEq] at hs
      exact .wrIgnored i v rest h (hs.symm.trans (hd _ rfl))
  · rename_i hi
    split_ifs at hs with hb
    simp only [Host.Outcome.next.injEq] at hs
    exact .wrWidth i v rest h hi (by simpa using hb) (hs.symm.trans (hd _ rfl))
  · rename_i hi
    split_ifs at hs with hb
    simp only [Host.Outcome.next.injEq] at hs
    exact .wrHeight i v rest h hi (by simpa using hb) (hs.symm.trans (hd _ rfl))
  · simp only [Host.Outcome.next.injEq] at hs
    exact .wrIgnored i v rest h (hs.symm.trans (hd _ rfl))

theorem hostPush_cases {f : Byte} {m : IfNotAccepted} (h : s.script = .push f m :: rest)
    (hs : hostPush f s = .next t) : StepCase s t := by
  have hd : ∀ u : State, u.script = s.script → opDone u = { u with script := rest } := by
    intro u hu; simp [opDone, hu, h]
  by_cases hb : s.phase.busy = true
  · obtain hp | hp : s.phase = .filter ∨ s.phase = .sample := by
      cases hp : s.phase <;> simp_all [Phase.busy]
    · by_cases hf : f.toNat ≤ 4
      · obtain ⟨i, hi⟩ := decodeFT_of_le hf
        rw [hostPush_filter hp hi, exec_filter hp (portByte_push h),
          hd (selectRow (selectorCode i) s) rfl] at hs
        have hq : selectorCode i = f.setWidth 3 := by rw [decodeFT_eq_ok.mp hi]; rfl
        simp only [Host.Outcome.next.injEq, selectRow, hq] at hs
        exact .select f m rest h hp hf hs.symm
      · rw [hostPush_bad hp (by omega), hd (raiseFormatError badFilterType s.curRow f s) rfl] at hs
        simp only [Host.Outcome.next.injEq] at hs
        exact .badFilter f m rest h hp (by omega) hs.symm
    · by_cases hq : s.ftype.toNat ≤ 4
      · obtain ⟨i, hi⟩ := exists_selectorCode hq
        rw [hostPush_sample hp hi, exec_sample hp (portByte_push h)] at hs
        exact .sample f m rest i h hp hi hs
      · rw [hostPush_sample_bad hp (by omega)] at hs
        cases hs
  · have hb' : s.phase.busy = false := by simpa using hb
    rw [hostPush_notBusy hb'] at hs
    simp only [Host.Outcome.next.injEq] at hs
    exact .rejected f m rest h hb' hs.symm

/-- GRD answers exactly in DONE, below 3WH, with the byte the address reads (R90). -/
theorem hostGridRead_eq_next {a : Nat} :
    hostGridRead a s = .next t ↔
      s.phase = .done ∧ a < 3 * s.sessW.toNat * s.sessH.toNat ∧
        ∃ v, Memory.read s.grid a = some v ∧ t = opDone (answer (.byte v) s) := by
  unfold hostGridRead
  dsimp only
  split_ifs with hc
  · have hin := gridAddr_decompose_lt hc.2
    cases hr : gridRead s.sessW.toNat s.sessH.toNat s.grid (a / (3 * s.sessW.toNat))
        (a % (3 * s.sessW.toNat) / 3) (a % 3) with
    | ok v =>
      have hv := (gridRead_eq_ok.mp hr).2
      rw [gridAddr_decompose] at hv
      simp [hc, hv, eq_comm]
    | error e =>
      simp only [reduceCtorEq, false_iff]
      rintro ⟨-, -, v, hv, -⟩
      rw [← gridAddr_decompose s.sessW.toNat a] at hv
      rw [gridRead_eq_ok.mpr ⟨hin, hv⟩] at hr
      cases hr
  · simp only [false_iff]
    exact fun h => hc ⟨h.1, h.2.1⟩

/-- Everything a step that goes on can do. -/
theorem step_cases (h : step s = .next t) : StepCase s t := by
  cases hsc : s.script with
  | nil =>
    rw [step_silent hsc, Host.Outcome.next.injEq] at h
    exact .silent hsc h.symm
  | cons op rest =>
    cases op with
    | rd i =>
      rw [step_rd hsc, Host.Outcome.next.injEq] at h
      exact .rd i rest hsc h.symm
    | wr i v =>
      rw [step_wr hsc] at h
      exact hostWrite_cases hsc h
    | push f m =>
      rw [step_push hsc] at h
      exact hostPush_cases hsc h
    | grd a =>
      rw [step_grd hsc] at h
      obtain ⟨hp, ha, v, hv, rfl⟩ := hostGridRead_eq_next.mp h
      exact .grd a v rest hsc hp ha hv (by simp [opDone, answer, hsc])
    | reset =>
      rw [step_reset hsc, Host.Outcome.next.injEq] at h
      exact .reset rest hsc h.symm

end Sys2Proof.Machine
end

