-- ==== Sys2Proof/Laws/Safety.lean ====
section
/-! SUPPORT. Small facts in the terms of Safety.lean: the written cells, stream offsets, the cursor. -/

namespace Sys2Proof.Machine

/-! ## The grid when the written cells are the first `n` -/

theorem Memory.read_isSome_of_keys {m : Memory} {n a : Nat} (h : Memory.keys m = List.range n) :
    (Memory.read m a).isSome = true ↔ a < n := by
  rw [Memory.read_isSome, h, List.mem_range]

theorem Memory.exists_read_of_keys {m : Memory} {n a : Nat} (h : Memory.keys m = List.range n) (ha : a < n) :
    ∃ v, Memory.read m a = some v :=
  Option.isSome_iff_exists.mp ((Memory.read_isSome_of_keys h).mpr ha)

/-- Writing the next cell in raster order. -/
theorem Memory.keys_write_range {m : Memory} {n : Nat} {v : Byte} (h : Memory.keys m = List.range n) :
    Memory.keys (Memory.write m n v) = List.range (n + 1) := by
  rw [Memory.keys_write_above _ _ _ (by rw [h]; exact fun b hb => List.mem_range.mp hb), h, List.range_succ]

/-! ## Stream offsets -/

/-- A cell's stream offset against an offset within row `r'`. -/
theorem cellOffset_lt_iff {w r c k r' x : Nat} (hc : c < w) (hk : k < 3) (hx : x ≤ 3 * w) :
    cellOffset w r c k < r' * (1 + 3 * w) + x ↔ r < r' ∨ (r = r' ∧ 1 + 3 * c + k < x) := by
  unfold cellOffset
  rcases Nat.lt_trichotomy r r' with h | h | h
  · have := Nat.mul_le_mul_right (1 + 3 * w) (show r + 1 ≤ r' from h)
    rw [Nat.succ_mul] at this
    exact ⟨fun _ => .inl h, fun _ => by omega⟩
  · subst h; constructor <;> intro h <;> omega
  · have := Nat.mul_le_mul_right (1 + 3 * w) (show r' + 1 ≤ r from h)
    rw [Nat.succ_mul] at this
    constructor <;> intro h' <;> omega

/-- A stream offset says the machine is BUSY. -/
theorem busy_of_streamOffset {s : State} {n : Nat} (h : streamOffset s = some n) :
    s.phase = .filter ∨ s.phase = .sample := by
  unfold streamOffset at h
  split at h <;> simp_all

/-! ## The cursor -/

/-- The cursor advance in the terms of R70: no counter wraps inside the image. -/
theorem advance_advanced {s : State} (h : CursorInside s) : CursorAdvanced s (advance s) := by
  obtain ⟨h1, h2, h3⟩ := h
  have := s.height.isLt
  have := s.width.isLt
  unfold CursorAdvanced
  rcases advance_cases s with ⟨c1, e⟩ | ⟨c1, c2, e⟩ | ⟨c1, c2, e⟩ <;> rw [e]
  · rw [if_pos c1]
    refine ⟨?_, rfl, rfl, rfl, rfl⟩
    simp only [BitVec.toNat_add, BitVec.toNat_ofNat, BitVec.ofNat_eq_ofNat]
    omega
  · rw [if_neg (by omega), if_pos c2]
    refine ⟨rfl, ?_, rfl, rfl, rfl⟩
    simp only [BitVec.toNat_add, BitVec.toNat_ofNat, BitVec.ofNat_eq_ofNat]
    omega
  · rw [if_neg (by omega), if_neg (by omega)]
    refine ⟨rfl, rfl, ?_, rfl, rfl⟩
    simp only [BitVec.toNat_add, BitVec.toNat_ofNat, BitVec.ofNat_eq_ofNat]
    omega

/-! ## Runs -/

/-- The first step of a run. -/
theorem run_succ {s t : State} (n : Nat) (h : step s = .next t) :
    Host.Core.run Sys2Proof.core (n + 1) s = Host.Core.run Sys2Proof.core n t := by
  have : Sys2Proof.core.step s = .next t := h
  simp only [Host.Core.run, this]

end Sys2Proof.Machine
end

