-- ==== Sys2Proof/Tests/Slice0.lean ====
section
/-! SUPPORT. Tests against spec/95_test_vectors.md, the well-formedness smoke tests, and for every statement with hypotheses a
witness that meets them together. -/

namespace Sys2Proof.Tests

open Sys2Proof Sys2Proof.Machine

/-! ## Helpers -/

/-- A state of a `w` by `h` session at a cursor, the cells before it holding `cells`, with room for 64 grid bytes. -/
def session (p : Phase) (w h r c k : Nat) (q : BitVec 3) (cells : List Byte) (ops : List HostOp) : State :=
  { State.reset with
    phase := p, width := BitVec.ofNat 32 w, height := BitVec.ofNat 32 h, curRow := BitVec.ofNat 32 r,
    curCol := BitVec.ofNat 32 c, curComp := BitVec.ofNat 2 k, ftype := q, rowsDone := BitVec.ofNat 32 r,
    grid := (List.range cells.length).zip cells, sessW := BitVec.ofNat 32 w, sessH := BitVec.ofNat 32 h,
    gridBytes := 64, script := ops }

/-- A waiting host pushes one byte. -/
def push1 (f : Byte) : List HostOp := [.push f .waits]

/-- The cursor at pixel (1, 1) of a 2 by 2 image, with left, up and upper-left red components `a`, `b`, `c`. -/
def inner (q : BitVec 3) (f a b c : Byte) : State :=
  session .sample 2 2 1 1 0 q [c, 0, 0, b, 0, 0, a, 0, 0] (push1 f)

/-- The outcome is a next state of which this holds. -/
def goesOn (o : Host.Outcome State Fault Refusal) (p : State → Bool) : Bool :=
  match o with
  | .next t => p t
  | .fault _ => false
  | .refused _ => false

/-- The outcome is this refusal. -/
def refuses (o : Host.Outcome State Fault Refusal) (r : Refusal) : Bool :=
  match o with
  | .next _ => false
  | .fault _ => false
  | .refused r' => r' == r

/-- The outcome is this fault. -/
def faults (o : Host.Outcome State Fault Refusal) (e : Fault) : Bool :=
  match o with
  | .next _ => false
  | .fault e' => e' == e
  | .refused _ => false

/-- The step goes on and the grid then holds `x` at address `a`. -/
def writes (s : State) (a : Nat) (x : Byte) : Bool := goesOn (step s) (fun t => Memory.read t.grid a == some x)

/-! ## Well-formedness: an ill-formed term for each check -/

theorem test_wf_row : Scanline.wf 2 ⟨.sub, [1, 2, 3, 4, 5, 6]⟩ = true := by decide

theorem test_wf_refuses_short_row : Scanline.wf 2 ⟨.sub, [1, 2, 3, 4, 5]⟩ = false := by decide

theorem test_wf_stream : streamWf 1 2 [⟨.none, [1, 2, 3]⟩, ⟨.up, [4, 5, 6]⟩] = true := by decide

theorem test_wf_refuses_missing_row : streamWf 1 2 [⟨.none, [1, 2, 3]⟩] = false := by decide

theorem test_wf_refuses_long_row : streamWf 1 1 [⟨.none, [1, 2, 3, 4]⟩] = false := by decide

theorem test_wf_refuses_no_width : streamWf 0 1 [⟨.none, []⟩] = false := by decide

theorem test_wf_refuses_no_height : streamWf 1 0 [] = false := by decide

/-! ## Decoding: the words of R58, bit by bit -/

theorem test_decode_none : decodeFT 0b00000000#8 = .ok .none := by rfl

theorem test_decode_sub : decodeFT 0b00000001#8 = .ok .sub := by rfl

theorem test_decode_up : decodeFT 0b00000010#8 = .ok .up := by rfl

theorem test_decode_avg : decodeFT 0b00000011#8 = .ok .avg := by rfl

theorem test_decode_paeth : decodeFT 0b00000100#8 = .ok .paeth := by rfl

theorem test_decode_refuses_five : decodeFT 0b00000101#8 = .error (.badFilterType 0x05#8) := by rfl

/-- R60's example: `SUB 01 02 03 | 04 05 06` is the bytes 01 01 02 03 04 05 06. -/
theorem test_encode_row : encodeScanline ⟨.sub, [1, 2, 3, 4, 5, 6]⟩ = [1, 1, 2, 3, 4, 5, 6] := by decide

/-- The stream of P1 (95, P1). -/
theorem test_decode_stream :
    decodeStream 2 2 [0x00, 0xFF, 0, 0, 0, 0xFF, 0, 0x00, 0, 0, 0xFF, 0xFF, 0xFF, 0xFF] =
      .ok ([⟨.none, [0xFF, 0, 0, 0, 0xFF, 0]⟩, ⟨.none, [0, 0, 0xFF, 0xFF, 0xFF, 0xFF]⟩], []) := by rfl

theorem test_table_word : decodeTableWord 8 3 = some .avg ∧ decodeTableWord 8 5 = none := by decide

/-- The first step after reset runs a placed instruction: the filter-type byte loads the selector. -/
theorem test_fetch_word : goesOn (step (State.reset.withFetchWord 8 4)) (fun t => t.phase == .sample && t.ftype == 4) := by
  decide

/-- That step is the execution of the decoded instruction, for each row of the opcode table. -/
theorem test_fetch_word_runs (i : Instr) :
    step (State.reset.withFetchWord 8 (encodeFT i).toNat) = exec i (State.reset.withFetchWord 8 (encodeFT i).toNat) := by
  cases i <;> rfl

/-! ## The datapath (95, 2.1 to 2.3) -/

theorem test_adder : [((0, 0), 0), ((255, 1), 0), ((100, 200), 44), ((128, 128), 0), ((255, 255), 254), ((5, 10), 15)].all
    (fun v : (Byte × Byte) × Byte => modAdd v.1.1 v.1.2 == v.2) = true := by decide

theorem test_average : [((0, 0), 0), ((1, 2), 1), ((255, 255), 255), ((100, 201), 150), ((0, 255), 127), ((254, 255), 254),
    ((3, 0), 1)].all (fun v : (Byte × Byte) × Byte => average v.1.1 v.1.2 == v.2) = true := by decide

theorem test_paeth : [((10, 10, 10), 10), ((100, 50, 50), 100), ((50, 100, 50), 100), ((50, 60, 55), 55), ((10, 10, 0), 10),
    ((0, 30, 10), 30), ((0, 30, 20), 0), ((0, 50, 30), 30), ((0, 0, 255), 0), ((255, 255, 0), 255)].all
    (fun v : (Byte × Byte × Byte) × Byte => paethPredictor v.1.1 v.1.2.1 v.1.2.2 == v.2) = true := by decide

/-! ## One sample step per filter type and corner (95, 2.4) -/

theorem test_none_ignores_neighbours : writes (inner 0 0xC8 9 9 9) 9 200 = true := by decide

theorem test_sub_wraps : writes (session .sample 2 2 0 1 0 1 [200, 0, 0] (push1 0x64)) 3 44 = true := by decide

theorem test_sub_column_zero : writes (session .sample 2 2 0 0 0 1 [] (push1 0x80)) 0 128 = true := by decide

theorem test_up_wraps : writes (session .sample 1 2 1 0 0 2 [255, 0, 0] (push1 0x02)) 3 1 = true := by decide

theorem test_up_row_zero : writes (session .sample 1 2 0 0 0 2 [] (push1 0x07)) 0 7 = true := by decide

theorem test_avg_odd_sum : writes (inner 3 0x0A 100 201 0) 9 160 = true := by decide

theorem test_avg_row_zero : writes (session .sample 2 2 0 1 0 3 [201, 0, 0] (push1 0xFF)) 3 99 = true := by decide

theorem test_paeth_upper_left : writes (inner 4 0x03 50 60 55) 9 58 = true := by decide

theorem test_paeth_tie_to_up : writes (inner 4 0x00 0 30 10) 9 30 = true := by decide

/-- The blue component of pixel (2, 1) of P3, offset 20: `201 + 255 = 456`, which is 200 mod 256. -/
theorem test_paeth_third_lane :
    writes (session .sample 2 3 2 1 2 4
      [10, 10, 10, 20, 30, 40, 10, 10, 10, 15, 40, 255, 12, 8, 0, 90, 60] (push1 0xC9)) 17 200 = true := by decide

/-! ## The filter-type step and the cursor (95, 2.5 and 2.6) -/

theorem test_filter_step_loads : goesOn (step (session .filter 4 3 0 0 0 0 [] (push1 2)))
    (fun t => t.ftype == 2 && t.phase == .sample && t.script == []) = true := by decide

theorem test_filter_step_raises : goesOn (step (session .filter 4 3 2 0 0 0 [] (push1 7)))
    (fun t => t.phase == .error && t.errKind == 1 && t.errRow == 2 && t.errByte == 7 && offendingOffset t == 26)
      = true := by decide

theorem test_cursor_next_pixel : goesOn (step (session .sample 2 2 0 0 2 0 [1, 2] (push1 0)))
    (fun t => t.phase == .sample && t.curRow == 0 && t.curCol == 1 && t.curComp == 0 && t.rowsDone == 0) = true := by decide

theorem test_cursor_next_row : goesOn (step (session .sample 2 2 0 1 2 0 [1, 2, 3, 4, 5] (push1 0)))
    (fun t => t.phase == .filter && t.curRow == 1 && t.curCol == 0 && t.curComp == 0 && t.rowsDone == 1) = true := by decide

theorem test_cursor_done :
    goesOn (step (session .sample 2 2 1 1 2 0 [1, 2, 3, 4, 5, 6, 7, 8, 9, 10, 11] (push1 0)))
      (fun t => t.phase == .done && t.curRow == 2 && t.curCol == 0 && t.rowsDone == 2) = true := by decide

/-! ## The host interface (95, 2.7) -/

theorem test_status : (statusWord .idle, statusWord .filter, statusWord .sample, statusWord .done, statusWord .error) =
    (0x00, 0x09, 0x0A, 0x13, 0x24) := by decide

theorem test_read_unmapped : goesOn (step { State.reset with script := [.rd 12] })
    (fun t => t.reply == some (.reg 0)) = true := by decide

theorem test_start_width_zero : refuses (step { State.reset with script := [.wr 0 1] }) .startNotAdmitted = true := by decide

theorem test_start_too_large :
    refuses (step { State.reset with width := 1, height := 2, gridBytes := 5, script := [.wr 0 1] }) .startNotAdmitted
      = true := by decide

theorem test_start_fits : goesOn (step { State.reset with width := 1, height := 2, gridBytes := 6, script := [.wr 0 1] })
    (fun t => t.phase == .filter && t.sessW == 1 && t.sessH == 2) = true := by decide

theorem test_write_width_busy :
    refuses (step (session .sample 2 2 0 0 0 0 [] [.wr 2 5])) .configWriteWhileBusy = true := by decide

theorem test_write_rows_done_ignored : goesOn (step (session .sample 2 2 0 0 0 0 [] [.wr 4 7])) (fun t => t.rowsDone == 0)
    = true := by decide

theorem test_push_in_done : goesOn (step (session .done 1 1 1 0 0 0 [7, 8, 9] [.push 4 .movesOn]))
    (fun t => t == session .done 1 1 1 0 0 0 [7, 8, 9] []) = true := by decide

theorem test_grid_read : goesOn (step (session .done 1 1 1 0 0 2 [7, 8, 9] [.grd 2])) (fun t => t.reply == some (.byte 9))
    = true := by decide

theorem test_grid_read_beyond :
    refuses (step (session .done 1 1 1 0 0 2 [7, 8, 9] [.grd 3])) .gridReadNotHandedOff = true := by decide

theorem test_grid_read_in_error :
    refuses (step { session .error 1 3 1 0 0 0 [1, 2, 3] [.grd 0] with errKind := 1, errRow := 1, errByte := 5 })
      .gridReadNotHandedOff = true := by decide

/-- A write of WIDTH in DONE does not change what the grid reads as (log entry 3). -/
theorem test_grid_read_after_width_write :
    goesOn (step { session .done 1 1 1 0 0 2 [7, 8, 9] [.grd 2] with width := 0 }) (fun t => t.reply == some (.byte 9))
      = true := by decide

/-- Model faults are kept, never a value (R37, R38, 93 U12). -/
theorem test_model_faults :
    faults (step (session .sample 2 2 0 1 0 1 [] (push1 0))) .unwrittenGridRead = true ∧
    faults (step (session .sample 2 2 0 0 0 1 [9] (push1 0))) .gridRewrite = true ∧
    faults (step (session .sample 2 2 2 0 0 0 [] (push1 0))) .unwrittenGridRead = true ∧
    faults (step (session .sample 2 2 0 0 3 0 [] (push1 0))) .gridOutOfRange = true ∧
    faults (step (session .sample 2 2 0 0 0 5 [] (push1 0))) .ftypeOutOfRange = true := by decide

/-! ## Witnesses: states that meet the hypotheses of the statements -/

/-- The invariant of a state whose session is written out. -/
theorem test_inv_filter : MachineInv (session .filter 2 2 1 0 0 1 [1, 2, 3, 4, 5, 6] (push1 2)) := by
  refine ⟨?_, ?_, ?_, ?_, ?_, ?_, ?_, ?_, ?_, ?_⟩ <;> decide

theorem test_inv_sample : MachineInv (inner 4 0 10 10 10) := by
  refine ⟨?_, ?_, ?_, ?_, ?_, ?_, ?_, ?_, ?_, ?_⟩ <;> decide

theorem test_inv_done : MachineInv (session .done 1 1 1 0 0 2 [7, 8, 9] [.grd 2]) := by
  refine ⟨?_, ?_, ?_, ?_, ?_, ?_, ?_, ?_, ?_, ?_⟩ <;> decide

theorem test_inv_error :
    MachineInv { session .error 1 3 1 0 0 0 [1, 2, 3] [.grd 0] with errKind := 1, errRow := 1, errByte := 5 } := by
  refine ⟨?_, ?_, ?_, ?_, ?_, ?_, ?_, ?_, ?_, ?_⟩ <;> decide

/-- IllegalFilterTypeRaisesFormatError, FilterTypeStep (second clause), ErrorEntryIsPrecise, OffendingOffsetNamesTheBadByte: the
least and the greatest illegal byte. -/
theorem test_witness_illegal_byte : ∀ f ∈ [(5 : Byte), 255],
    MachineInv (session .filter 2 2 1 0 0 1 [1, 2, 3, 4, 5, 6] (push1 f)) ∧ 5 ≤ f.toNat := by
  intro f hf
  simp only [List.mem_cons, List.not_mem_nil, or_false] at hf
  rcases hf with rfl | rfl <;>
    exact ⟨by refine ⟨?_, ?_, ?_, ?_, ?_, ?_, ?_, ?_, ?_, ?_⟩ <;> decide, by decide⟩

/-- StreamDecodesItsEncoding, ScanlinesPartitionTheStream: two well-formed rows, the last of them. -/
theorem test_witness_rows :
    (∀ l ∈ [(⟨.sub, [1, 2, 3]⟩ : Scanline), ⟨.paeth, [4, 5, 255]⟩], l.wf 1 = true) ∧
    [(⟨.sub, [1, 2, 3]⟩ : Scanline), ⟨.paeth, [4, 5, 255]⟩][1]? = some ⟨.paeth, [4, 5, 255]⟩ := by decide

/-- StreamEncodesItsDecoding: a stream that decodes, with a byte left over. -/
theorem test_witness_decoded_stream :
    decodeStream 1 1 [2, 7, 8, 9, 0] = .ok ([⟨.up, [7, 8, 9]⟩], [0]) := by rfl

/-- AddressMapNamesEachCellOnce and NeighbourAddressesLieBelowTheStore: the last address and cell of a 2 by 2 image. -/
theorem test_witness_address : 11 < 3 * 2 * 2 ∧ gridAddr 2 1 1 2 = 11 ∧ (1 < 2 ∧ 1 < 2 ∧ 2 < 3) := by decide

/-- WrittenCellIsImmutable: a written cell and a step that goes on, by a sample step, an admitted START and a RESET. -/
theorem test_witness_written_cell :
    (∃ t, step (inner 1 5 10 20 30) = .next t) ∧ Memory.read (inner 1 5 10 20 30).grid 0 = some 30 ∧
    (∃ t, step (session .done 1 1 1 0 0 2 [7, 8, 9] [.wr 0 1]) = .next t) ∧
    (∃ t, step (session .done 1 1 1 0 0 2 [7, 8, 9] [.reset]) = .next t) :=
  ⟨⟨_, rfl⟩, by decide, ⟨_, rfl⟩, ⟨_, rfl⟩⟩

/-- BoundaryMultiplexerDeliversNeighbours and the five result statements, inside the image, in row 0, in column 0 and in the
corner; AvgAddsTheAverage with both neighbours 255. -/
theorem test_witness_sample_ready :
    SampleReady (inner 4 5 10 20 30) 5 10 20 30 ∧
    SampleReady (session .sample 2 2 0 1 0 1 [200, 0, 0] (push1 1)) 1 200 0 0 ∧
    SampleReady (session .sample 1 2 1 0 0 2 [255, 0, 0] (push1 2)) 2 0 255 0 ∧
    SampleReady (session .sample 2 2 0 0 0 3 [] (push1 255)) 255 0 0 0 ∧
    SampleReady (inner 3 0 255 255 0) 0 255 255 0 := by
  refine ⟨?_, ?_, ?_, ?_, ?_⟩ <;> exact ⟨by decide, by decide, by decide, by decide, by decide, by decide, by decide⟩

/-- The row and column hypotheses of the corner clauses, on the states above. -/
theorem test_witness_corners :
    (session .sample 2 2 0 1 0 1 [200, 0, 0] (push1 1)).curRow = 0 ∧
    ((session .sample 1 2 1 0 0 2 [255, 0, 0] (push1 2)).curCol = 0 ∧
      (session .sample 1 2 1 0 0 2 [255, 0, 0] (push1 2)).curRow ≠ 0) ∧
    ((session .sample 2 2 0 0 0 3 [] (push1 255)).curRow = 0 ∧
      (session .sample 2 2 0 0 0 3 [] (push1 255)).curCol = 0) := by decide

/-- PaethChoosesTheNearestNeighbour and PaethAddsTheChoice: the
distances of the neighbours (10, 10, 0), (0, 30, 10) and (50, 60, 55) of 95, 2.3 meet one clause each. -/
theorem test_witness_paeth_clauses :
    (((10 : Int) - 0).natAbs = ((10 : Int) - 0).natAbs ∧ ((10 : Int) - 0).natAbs < ((10 : Int) + 10 - 2 * 0).natAbs) ∧
    (((0 : Int) - 10).natAbs = ((0 : Int) + 30 - 2 * 10).natAbs ∧
      ((0 : Int) + 30 - 2 * 10).natAbs < ((30 : Int) - 10).natAbs) ∧
    (¬ (((60 : Int) - 55).natAbs ≤ ((50 : Int) - 55).natAbs ∧
        ((60 : Int) - 55).natAbs ≤ ((50 : Int) + 60 - 2 * 55).natAbs) ∧
      ¬ ((50 : Int) - 55).natAbs ≤ ((50 : Int) + 60 - 2 * 55).natAbs) := by decide

/-- StepRunsDecodedInstruction: a filter-type byte that decodes, a selector of an instruction, and one of none. -/
theorem test_witness_decoded :
    decodeFT 4 = .ok .paeth ∧ (inner 4 0 1 2 3).ftype.setWidth 8 = encodeFT .paeth ∧
    5 ≤ (session .sample 2 2 0 0 0 5 [] (push1 0)).ftype.toNat := ⟨rfl, by decide, by decide⟩

/-- InstructionLoadsItsSelector, FilterTypeStep (first clause): FILTER with a valid byte at the port, for every instruction. -/
theorem test_witness_filter (i : Instr) :
    (session .filter 2 2 0 0 0 0 [] (push1 (encodeFT i))).phase = .filter ∧
    (session .filter 2 2 0 0 0 0 [] (push1 (encodeFT i))).script = .push (encodeFT i) .waits :: [] ∧
    (encodeFT i).toNat ≤ 4 := ⟨rfl, rfl, by cases i <;> decide⟩

/-- SampleStepAdvancesTheCursor, InstructionFrame: an instruction that goes on in SAMPLE, one in FILTER, and one in DONE, where
its byte is not accepted. -/
theorem test_witness_exec :
    (∃ t, exec .paeth (inner 4 5 10 20 30) = .next t) ∧
    (∃ t, exec .up (session .filter 2 2 0 0 0 0 [] (push1 2)) = .next t) ∧
    (∃ t, exec .up (session .done 1 1 1 0 0 2 [7, 8, 9] (push1 2)) = .next t) := ⟨⟨_, rfl⟩, ⟨_, rfl⟩, ⟨_, rfl⟩⟩

/-- LanesAreIndependent: two states that differ in the green lane only. -/
theorem test_witness_lanes :
    (∀ a < 9, a % 3 = 0 →
      Memory.read (session .sample 2 2 1 1 0 4 [3, 0, 0, 2, 0, 0, 1, 99, 0] (push1 5)).grid a =
        Memory.read (inner 4 5 1 2 3).grid a) ∧
    Memory.read (session .sample 2 2 1 1 0 4 [3, 0, 0, 2, 0, 0, 1, 99, 0] (push1 5)).grid 7 ≠
      Memory.read (inner 4 5 1 2 3).grid 7 ∧
    (∃ t, exec .paeth (inner 4 5 1 2 3) = .next t) ∧
    ∃ t, exec .paeth (session .sample 2 2 1 1 0 4 [3, 0, 0, 2, 0, 0, 1, 99, 0] (push1 5)) = .next t :=
  ⟨by decide, by decide, ⟨_, rfl⟩, ⟨_, rfl⟩⟩

/-- BlockHasNoAutonomousStep, ResetOperation: a host with nothing to do, and one that resets in the middle of a row. -/
theorem test_witness_silent_and_reset :
    State.reset.script = [] ∧ (session .sample 2 2 1 0 0 1 [] [.reset]).script = .reset :: [] := by decide

/-- RegisterRead: every mapped index, the first unmapped one and the last. -/
theorem test_witness_read (i : BitVec 8) : { State.reset with script := [.rd i] }.script = .rd i :: [] := rfl

/-- RegisterWrite: CTRL with bit 0 set and clear, WIDTH and HEIGHT while BUSY and not, and ignored indices (1, 4, 255). -/
theorem test_witness_write :
    ((1 : Word).getLsbD 0 = true ∧ (2 : Word).getLsbD 0 = false) ∧
    (session .filter 2 2 0 0 0 0 [] [.wr 3 9]).phase = .filter ∧
    (State.reset.phase ≠ .filter ∧ State.reset.phase ≠ .sample) ∧
    ((1 : BitVec 8).toNat = 1 ∧ 4 ≤ (4 : BitVec 8).toNat ∧ 4 ≤ (255 : BitVec 8).toNat) := by decide

/-- StartAdmission, StartBeginsASession: a grid that fits exactly, and one byte too few. -/
theorem test_witness_start :
    startAdmitted { State.reset with width := 1, height := 2, gridBytes := 6, script := [.wr 0 1] } = true ∧
    startAdmitted { State.reset with width := 1, height := 2, gridBytes := 5, script := [.wr 0 1] } = false := by decide

/-- PushNotAccepted: each of the three phases. -/
theorem test_witness_not_accepted :
    State.reset.phase = .idle ∧ (session .done 1 1 1 0 0 2 [7, 8, 9] (push1 4)).phase = .done ∧
    (session .error 1 3 1 0 0 0 [1, 2, 3] [.push 4 .movesOn]).phase = .error := by decide

/-- GridReadIsHandedOffInDone (with test_inv_done): the last address of the grid and the first beyond it. -/
theorem test_witness_grid_read :
    2 < 3 * (session .done 1 1 1 0 0 2 [7, 8, 9] [.grd 2]).sessW.toNat *
      (session .done 1 1 1 0 0 2 [7, 8, 9] [.grd 2]).sessH.toNat ∧
    3 * (session .done 1 1 1 0 0 2 [7, 8, 9] [.grd 3]).sessW.toNat *
      (session .done 1 1 1 0 0 2 [7, 8, 9] [.grd 3]).sessH.toNat ≤ 3 := by decide

/-- HandedOffGridIsStable, ReadsHaveNoSideEffect: in DONE a write of WIDTH, a register read and a grid read go on. -/
theorem test_witness_done_steps :
    (∃ t, step (session .done 1 1 1 0 0 2 [7, 8, 9] [.wr 2 0]) = .next t) ∧
    (∃ t, step (session .done 1 1 1 0 0 2 [7, 8, 9] [.rd 1]) = .next t) ∧
    (∃ t, step (session .done 1 1 1 0 0 2 [7, 8, 9] [.grd 2]) = .next t) := ⟨⟨_, rfl⟩, ⟨_, rfl⟩, ⟨_, rfl⟩⟩

/-- SizesAreFixedWhileBusy, SelectorChangesOnlyOnItsEvents: steps in FILTER and SAMPLE. -/
theorem test_witness_busy_steps :
    (∃ t, step (session .filter 2 2 0 0 0 0 [] (push1 3)) = .next t) ∧
    (∃ t, step (session .sample 2 2 0 0 0 3 [] (push1 3)) = .next t) := ⟨⟨_, rfl⟩, ⟨_, rfl⟩⟩

/-- ErrorPersistsUntilStartOrReset: in ERROR a read goes on, and so do START and RESET. -/
theorem test_witness_error_steps :
    (∃ t, step { session .error 1 3 1 0 0 0 [1, 2, 3] [.rd 5] with errKind := 1, errRow := 1, errByte := 5 } = .next t) ∧
    (∃ t, step { session .error 1 3 1 0 0 0 [1, 2, 3] [.wr 0 1] with errKind := 1, errRow := 1, errByte := 5 } = .next t) ∧
    (∃ t, step { session .error 1 3 1 0 0 0 [1, 2, 3] [.reset] with errKind := 1, errRow := 1, errByte := 5 } = .next t) :=
  ⟨⟨_, rfl⟩, ⟨_, rfl⟩, ⟨_, rfl⟩⟩

/-- RowsDoneCountsFinishedRows, PhaseChangesOnlyOnItsEvents: the last component of a row, under the invariant. -/
theorem test_witness_row_end :
    (∃ t, step (session .sample 1 2 0 0 2 0 [1, 2] (push1 3)) = .next t ∧ t.phase ≠ .sample) ∧
    MachineInv (session .sample 1 2 0 0 2 0 [1, 2] (push1 3)) ∧
    (session .sample 1 2 0 0 2 0 [1, 2] (push1 3)).curComp = 2 ∧
    (session .sample 1 2 0 0 2 0 [1, 2] (push1 3)).curCol.toNat + 1 =
      (session .sample 1 2 0 0 2 0 [1, 2] (push1 3)).width.toNat :=
  ⟨⟨_, rfl, by decide⟩, by refine ⟨?_, ?_, ?_, ?_, ?_, ?_, ?_, ?_, ?_, ?_⟩ <;> decide, by decide, by decide⟩

/-- InvariantIsKeptByEveryStep, NoModelFaultIsReachable (with test_inv_sample): the step goes on. -/
theorem test_witness_invariant_step : ∃ t, step (inner 4 0 10 10 10) = .next t := ⟨_, rfl⟩

/-- WrittenCellsAreThoseBeforeTheCursor, AcceptedByteAdvancesTheOffset (with test_inv_sample and test_inv_filter): BUSY states
have a stream offset, here of the last pixel's first byte and of a filter-type byte. -/
theorem test_witness_offset :
    streamOffset (inner 4 0 10 10 10) = some 11 ∧
    streamOffset (session .filter 2 2 1 0 0 1 [1, 2, 3, 4, 5, 6] (push1 2)) = some 7 := by decide

/-- SessionEndsWithinItsStream, FullStreamReconstructsTheImage: the start of a session of one pixel, with its whole stream. -/
theorem test_witness_session :
    MachineInv (session .filter 1 1 0 0 0 0 [] (pushes [2, 7, 8, 9])) ∧
    streamOffset (session .filter 1 1 0 0 0 0 [] (pushes [2, 7, 8, 9])) = some 0 ∧
    [(2 : Byte), 7, 8, 9].length = 1 * (1 + 3 * 1) ∧ streamWf 1 1 [⟨.up, [7, 8, 9]⟩] = true ∧
    encodeStream [⟨.up, [7, 8, 9]⟩] = [2, 7, 8, 9] :=
  ⟨by refine ⟨?_, ?_, ?_, ?_, ?_, ?_, ?_, ?_, ?_, ?_⟩ <;> decide, by decide, by decide, by decide, by decide⟩

/-- ConfigureAndStartFromReset: the smallest image, in a grid memory it fills. -/
theorem test_witness_boot : 1 ≤ (1 : Word).toNat ∧ 3 * (1 : Word).toNat * (1 : Word).toNat ≤ 3 := by decide

end Sys2Proof.Tests
end

/-! The neighbours of a cell: what the multiplexer reads, and what a write at or above the cell leaves alone. -/

namespace Sys2Proof.Machine

/-- The multiplexer's view of a written cell is the cell's value. -/
theorem gridRead_eq_cellValue {w h r c k n : Nat} {m : Memory} (hm : Memory.keys m = List.range n)
    (hin : r < h ∧ c < w ∧ k < 3) (hn : gridAddr w r c k < n) : gridRead w h m r c k = .ok (cellValue m w r c k) := by
  obtain ⟨v, hv⟩ := Memory.exists_read_of_keys hm hn
  exact gridRead_eq_ok.mpr ⟨hin, by simp [cellValue, hv]⟩

/-- When the written cells are those before the cursor, the multiplexer delivers the neighbours of the cell under the cursor
(R62, R63). -/
theorem boundaryMux_of_keys {s : State} (hin : CursorInside s) (hm : Memory.keys s.grid = List.range (cellAddr s)) :
    boundaryMux s = .ok (neighboursIn s.grid s.width.toNat s.curRow.toNat s.curCol.toNat s.curComp.toNat) := by
  obtain ⟨hr, hc, hk⟩ := hin
  have read {r c : Nat} (hr' : r ≤ s.curRow.toNat) (hc' : c ≤ s.curCol.toNat)
      (hlt : r < s.curRow.toNat ∨ c < s.curCol.toNat) :
      gridRead s.width.toNat s.height.toNat s.grid r c s.curComp.toNat =
        .ok (cellValue s.grid s.width.toNat r c s.curComp.toNat) :=
    gridRead_eq_cellValue hm ⟨by omega, by omega, hk⟩ ((gridAddr_lt_iff (by omega) hk hc hk).mpr (by omega))
  simp only [boundaryMux_eq_ok, muxInput_eq_ok, neighboursIn]
  refine ⟨?_, ?_, ?_⟩
  · by_cases h0 : s.curCol.toNat = 0
    · simp [h0]
    · simpa [h0, Nat.pos_of_ne_zero h0] using read (le_refl _) (Nat.sub_le _ 1) (.inr (by omega))
  · by_cases h0 : s.curRow.toNat = 0
    · simp [h0]
    · simpa [h0, Nat.pos_of_ne_zero h0] using read (Nat.sub_le _ 1) (le_refl _) (.inl (by omega))
  · by_cases h0 : s.curRow.toNat = 0 ∨ s.curCol.toNat = 0
    · rcases h0 with h0 | h0 <;> simp [h0]
    · obtain ⟨h1, h2⟩ := not_or.mp h0
      simpa [h1, h2, Nat.pos_of_ne_zero] using read (Nat.sub_le _ 1) (Nat.sub_le _ 1) (.inl (by omega))

/-- A write at another address leaves a cell's value alone. -/
theorem cellValue_write_other {w r c k a : Nat} {m : Memory} {v : Byte} (h : gridAddr w r c k ≠ a) :
    cellValue (Memory.write m a v) w r c k = cellValue m w r c k := by
  simp [cellValue, Memory.read_write_other _ _ _ _ h]

/-- A write at a cell or above it leaves the cell's neighbours alone: their addresses lie below the cell's (R79). -/
theorem neighboursIn_write {w r c k a : Nat} {m : Memory} {v : Byte} (hc : c < w) (hk : k < 3)
    (ha : gridAddr w r c k ≤ a) : neighboursIn (Memory.write m a v) w r c k = neighboursIn m w r c k := by
  have keep {r' c' : Nat} (hr' : r' ≤ r) (hc' : c' ≤ c) (hlt : r' < r ∨ c' < c) :
      cellValue (Memory.write m a v) w r' c' k = cellValue m w r' c' k :=
    cellValue_write_other
      (((gridAddr_lt_iff (by omega) hk hc hk).mpr (by omega)).trans_le ha).ne
  simp only [neighboursIn, Neighbours.mk.injEq]
  refine ⟨?_, ?_, ?_⟩
  · split_ifs
    · rfl
    · exact keep (le_refl _) (Nat.sub_le _ 1) (.inr (by omega))
  · split_ifs
    · rfl
    · exact keep (Nat.sub_le _ 1) (le_refl _) (.inl (by omega))
  · split_ifs
    · rfl
    · exact keep (Nat.sub_le _ 1) (Nat.sub_le _ 1) (.inl (by omega))

/-- A reconstructed cell stays reconstructed when a cell above it is written. -/
theorem CellReconstructed.write_above {w r c k a : Nat} {m : Memory} {v : Byte} {l : Scanline} (hc : c < w) (hk : k < 3)
    (ha : gridAddr w r c k < a) (h : CellReconstructed m w l r c k) :
    CellReconstructed (Memory.write m a v) w l r c k := by
  obtain ⟨f, hf, hr⟩ := h
  exact ⟨f, hf, by rw [Memory.read_write_other _ _ _ _ ha.ne, neighboursIn_write hc hk ha.le, hr]⟩

/-- The sample step's own write reconstructs its cell. -/
theorem cellReconstructed_write_same {w r c k : Nat} {m : Memory} {f : Byte} {l : Scanline} (hc : c < w) (hk : k < 3)
    (hf : l.samples[3 * c + k]? = some f) :
    CellReconstructed
      (Memory.write m (gridAddr w r c k) (modAdd f (predictor l.op (neighboursIn m w r c k)))) w l r c k :=
  ⟨f, hf, by rw [Memory.read_write_same, neighboursIn_write hc hk (le_refl _)]⟩

end Sys2Proof.Machine

/-! The reconstruction pass: what holds at the start of a row and inside one, one lemma per kind of byte, then the runs over a
row and over an image (R4, R69, R70). -/

namespace Sys2Proof.Machine

open Host.Core (run)

/-- A run is its first `m` steps, then the rest. -/
theorem run_add {m n : Nat} {s t : State} (h : run core m s = .next t) : run core (m + n) s = run core n t := by
  induction m generalizing s with
  | zero =>
    obtain rfl : s = t := Host.Outcome.next.inj h
    rw [Nat.zero_add]
  | succ m ih =>
    cases hs : step s with
    | next u =>
      rw [run_succ m hs] at h
      rw [Nat.succ_add, run_succ _ hs, ih h]
    | fault e =>
      have hs' : core.step s = .fault e := hs
      simp [run, hs'] at h
    | refused e =>
      have hs' : core.step s = .refused e := hs
      simp [run, hs'] at h

/-- How many filtered bytes of the current row are consumed. -/
def rowPos (s : State) : Nat := 3 * s.curCol.toNat + s.curComp.toNat

theorem cursorAddr_eq (s : State) : cursorAddr s = s.curRow.toNat * (3 * s.sessW.toNat) + rowPos s := by
  unfold cursorAddr gridAddr rowPos
  ring

/-- During the pass over `rows`, an image `w` by `h`: the sizes are those of the session, the written cells are those before the
cursor, and each of them is the reconstruction of its filtered byte. -/
structure Reconstructing (w h : Word) (rows : List Scanline) (s : State) : Prop where
  width : s.width = w
  height : s.height = h
  sessW : s.sessW = w
  sessH : s.sessH = h
  rowsDone : s.rowsDone = s.curRow
  keys : Memory.keys s.grid = List.range (cursorAddr s)
  cells : ∀ r c k l, rows[r]? = some l → c < w.toNat → k < 3 → gridAddr w.toNat r c k < cursorAddr s →
    CellReconstructed s.grid w.toNat l r c k

/-- Between two rows: the rows before CUR_ROW are done, the host is about to push the others. After the last row PHASE is DONE. -/
structure AtRowStart (w h : Word) (rows : List Scanline) (rest : List HostOp) (s : State) : Prop
    extends Reconstructing w h rows s where
  phase : s.phase = if s.curRow.toNat = h.toNat then .done else .filter
  curCol : s.curCol = 0
  curComp : s.curComp = 0
  script : s.script = pushes (encodeStream (rows.drop s.curRow.toNat)) ++ rest

/-- Inside the row of scanline `l`: the host is about to push the filtered bytes that are left of it, then the later rows. -/
structure InRow (w h : Word) (rows : List Scanline) (rest : List HostOp) (l : Scanline) (s : State) : Prop
    extends Reconstructing w h rows s where
  phase : s.phase = .sample
  inside : CursorInside s
  row : rows[s.curRow.toNat]? = some l
  ftype : s.ftype = selectorCode l.op
  script : s.script =
    pushes (l.samples.drop (rowPos s) ++ encodeStream (rows.drop (s.curRow.toNat + 1))) ++ rest

section Pass

variable {w h : Word} {rows : List Scanline} {rest : List HostOp} {l : Scanline} {s t : State}

/-- The filter-type byte of a row opens it. -/
theorem AtRowStart.step_opens_row (hs : AtRowStart w h rows rest s) (hw : 0 < w.toNat)
    (hr : s.curRow.toNat < h.toNat) (hl : rows[s.curRow.toNat]? = some l) :
    ∃ t, step s = .next t ∧ InRow w h rows rest l t ∧ rowPos t = 0 ∧ t.curRow = s.curRow := by
  have hp : s.phase = .filter := by rw [hs.phase, if_neg (by omega)]
  have hdrop : rows.drop s.curRow.toNat = l :: rows.drop (s.curRow.toNat + 1) :=
    (List.drop_eq_getElem?_toList_append ..).trans (by simp [hl])
  have hsc : s.script = .push (encodeFT l.op) .waits ::
      (pushes (l.samples ++ encodeStream (rows.drop (s.curRow.toNat + 1))) ++ rest) := by
    rw [hs.script, hdrop]; simp [encodeStream, encodeScanline, pushes]
  have hstep : step s = .next (opDone (selectRow (selectorCode l.op) s)) := by
    rw [step_push hsc, hostPush_filter hp (decodeFT_eq_ok.mpr rfl), exec_filter hp (portByte_push hsc)]
  have hpos : rowPos s = 0 := by simp [rowPos, hs.curCol, hs.curComp]
  exact ⟨_, hstep,
    { width := hs.width, height := hs.height, sessW := hs.sessW, sessH := hs.sessH, rowsDone := hs.rowsDone
      keys := hs.keys, cells := hs.cells, phase := rfl, row := hl, ftype := rfl
      inside := by simp [CursorInside, hs.width, hs.height, hs.curCol, hs.curComp, hr, hw]
      script := by
        have hpos' : rowPos (opDone (selectRow (selectorCode l.op) s)) = 0 := hpos
        simp [hpos', hsc] }, hpos, rfl⟩

/-- The state after a filtered byte `f` of scanline `l`: the cell under the cursor is reconstructed (R69). -/
def sampled (l : Scanline) (f : Byte) (s : State) : State :=
  opDone (advance { s with
    grid := Memory.write s.grid (cellAddr s) (modAdd f
      (predictor l.op (neighboursIn s.grid s.width.toNat s.curRow.toNat s.curCol.toNat s.curComp.toNat))) })

@[simp] theorem sampled_width (f : Byte) : (sampled l f s).width = s.width := by simp [sampled]
@[simp] theorem sampled_height (f : Byte) : (sampled l f s).height = s.height := by simp [sampled]
@[simp] theorem sampled_sessW (f : Byte) : (sampled l f s).sessW = s.sessW := by simp [sampled]
@[simp] theorem sampled_sessH (f : Byte) : (sampled l f s).sessH = s.sessH := by simp [sampled]
@[simp] theorem sampled_ftype (f : Byte) : (sampled l f s).ftype = s.ftype := by simp [sampled]
@[simp] theorem sampled_script (f : Byte) : (sampled l f s).script = s.script.tail := by simp [sampled]
@[simp] theorem sampled_grid (f : Byte) : (sampled l f s).grid = Memory.write s.grid (cellAddr s) (modAdd f
    (predictor l.op (neighboursIn s.grid s.width.toNat s.curRow.toNat s.curCol.toNat s.curComp.toNat))) := by
  simp [sampled]

theorem sampled_advanced {f : Byte} (hin : CursorInside s) : CursorAdvanced s (sampled l f s) :=
  advance_advanced (s := { s with grid := Memory.write s.grid _ _ }) hin

/-- The cursor advance inside a row and at its end (R70), in terms of the row's filtered bytes. -/
theorem cursorAdvanced_cases (hin : CursorInside s) (h : CursorAdvanced s t) :
    (rowPos s + 1 < 3 * s.width.toNat ∧ rowPos t = rowPos s + 1 ∧ t.curRow = s.curRow ∧
      t.curCol.toNat < s.width.toNat ∧ t.curComp.toNat < 3 ∧ t.phase = s.phase) ∨
    (rowPos s + 1 = 3 * s.width.toNat ∧ t.curCol = 0 ∧ t.curComp = 0 ∧ t.curRow.toNat = s.curRow.toNat + 1 ∧
      t.phase = if s.curRow.toNat + 1 = s.height.toNat then .done else .filter) := by
  obtain ⟨-, hc, hk⟩ := hin
  unfold CursorAdvanced at h
  unfold rowPos
  by_cases h1 : s.curComp.toNat < 2
  · rw [if_pos h1] at h
    obtain ⟨hcomp, hcol, hrow, -, hp⟩ := h
    have hcol' : t.curCol.toNat = s.curCol.toNat := by rw [hcol]
    refine .inl ⟨?_, ?_, hrow, ?_, ?_, hp⟩ <;> omega
  · rw [if_neg h1] at h
    by_cases h2 : s.curCol.toNat + 1 < s.width.toNat
    · rw [if_pos h2] at h
      obtain ⟨hcomp, hcol, hrow, -, hp⟩ := h
      have hcomp' : t.curComp.toNat = 0 := by simp [hcomp]
      refine .inl ⟨?_, ?_, hrow, ?_, ?_, hp⟩ <;> omega
    · rw [if_neg h2] at h
      obtain ⟨hcomp, hcol, hrow, -, hp⟩ := h
      exact .inr ⟨by omega, hcol, hcomp, hrow, hp⟩

/-- The cursor advances to the next cell in raster order, at the end of a row too. -/
theorem cursorAddr_of_advanced (hin : CursorInside s) (hw : s.width = s.sessW) (ht : t.sessW = s.sessW)
    (h : CursorAdvanced s t) : cursorAddr t = cursorAddr s + 1 := by
  rw [cursorAddr_eq, cursorAddr_eq, ht, ← hw]
  obtain ⟨-, hpos, hrow, -⟩ | ⟨hend, hcol, hcomp, hrow, -⟩ := cursorAdvanced_cases hin h
  · rw [hpos, hrow, Nat.add_assoc]
  · have hpos : rowPos t = 0 := by simp [rowPos, hcol, hcomp]
    rw [hpos, hrow, Nat.succ_mul]
    omega

/-- A push of a filtered byte takes the sample step of its row's filter type. -/
theorem step_eq_sampled {f : Byte} {m : IfNotAccepted} (hp : s.phase = .sample) (hq : s.ftype = selectorCode l.op)
    (hin : CursorInside s) (hk : Memory.keys s.grid = List.range (cellAddr s)) (hsc : s.script = .push f m :: rest) :
    step s = .next (sampled l f s) := by
  rw [step_push hsc, hostPush_sample hp hq, exec_sample hp (portByte_push hsc), sampleStep_eq_next]
  exact ⟨_, boundaryMux_of_keys hin hk, hin, by simp [Memory.read_eq_none, hk, cellAddr], rfl⟩

/-- The cursor advance counts the rows it leaves. -/
theorem advance_rowsDone_eq_curRow (h : s.rowsDone = s.curRow) : (advance s).rowsDone = (advance s).curRow := by
  rcases advance_cases s with ⟨-, e⟩ | ⟨-, -, e⟩ | ⟨-, -, e⟩ <;> rw [e]
  · exact h
  · exact h
  · simp [h]

theorem Reconstructing.cellAddr_eq (hs : Reconstructing w h rows s) : cellAddr s = cursorAddr s := by
  rw [cellAddr, cursorAddr, hs.width, hs.sessW]

/-- A filtered byte keeps the pass: the cells before the cursor stay reconstructed, the cell under it now is. -/
theorem Reconstructing.after_sample {f : Byte} (hs : Reconstructing w h rows s) (hin : CursorInside s)
    (hl : rows[s.curRow.toNat]? = some l) (hf : l.samples[rowPos s]? = some f) :
    Reconstructing w h rows (sampled l f s) := by
  have hcur : cursorAddr (sampled l f s) = cursorAddr s + 1 :=
    cursorAddr_of_advanced hin (hs.width.trans hs.sessW.symm) (sampled_sessW f) (sampled_advanced hin)
  refine
    { width := by simp [hs.width], height := by simp [hs.height], sessW := by simp [hs.sessW]
      sessH := by simp [hs.sessH]
      rowsDone := advance_rowsDone_eq_curRow (s := { s with grid := Memory.write s.grid _ _ }) hs.rowsDone
      keys := ?_, cells := ?_ }
  · rw [hcur, sampled_grid, hs.cellAddr_eq, Memory.keys_write_range hs.keys]
  · intro r c k l' hl' hc hk hlt
    rw [hcur, ← hs.cellAddr_eq] at hlt
    obtain ⟨-, hcol, hcomp⟩ := hin
    rw [hs.width] at hcol
    rw [sampled_grid, hs.width]
    rcases Nat.lt_succ_iff_lt_or_eq.mp hlt with hbefore | hat
    · exact (hs.cells r c k l' hl' hc hk (hs.cellAddr_eq ▸ hbefore)).write_above hc hk hbefore
    · rw [← hat]
      rw [cellAddr, hs.width] at hat
      obtain ⟨rfl, rfl, rfl⟩ := gridAddr_inj hc hk hcol hcomp hat
      obtain rfl : l = l' := Option.some.inj (hl.symm.trans hl')
      exact cellReconstructed_write_same hc hk hf

/-- A filtered byte leads to the next one of its row, or, as the last of its row, to the start of the next row. -/
theorem InRow.step_consumes (hs : InRow w h rows rest l s) (hwf : l.samples.length = 3 * w.toNat) :
    ∃ t, step s = .next t ∧
      ((rowPos s + 1 < 3 * w.toNat ∧ InRow w h rows rest l t ∧ rowPos t = rowPos s + 1 ∧ t.curRow = s.curRow) ∨
        (rowPos s + 1 = 3 * w.toNat ∧ AtRowStart w h rows rest t ∧ t.curRow.toNat = s.curRow.toNat + 1)) := by
  have hpos : rowPos s < l.samples.length := by
    obtain ⟨-, hc, hk⟩ := hs.inside
    rw [hs.width] at hc
    unfold rowPos
    omega
  have hsc : s.script = .push l.samples[rowPos s] .waits ::
      (pushes (l.samples.drop (rowPos s + 1) ++ encodeStream (rows.drop (s.curRow.toNat + 1))) ++ rest) := by
    rw [hs.script, List.drop_eq_getElem_cons hpos]
    rfl
  have hrec := hs.toReconstructing.after_sample hs.inside hs.row (List.getElem?_eq_getElem hpos)
  have hadv := cursorAdvanced_cases hs.inside (sampled_advanced (l := l) (f := l.samples[rowPos s]) hs.inside)
  rw [hs.width, hs.height] at hadv
  refine ⟨_, step_eq_sampled hs.phase hs.ftype hs.inside (hs.cellAddr_eq ▸ hs.keys) hsc, ?_⟩
  obtain ⟨hlt, hpos', hrow, hcol, hcomp, hp⟩ | ⟨hend, hcol, hcomp, hrow, hp⟩ := hadv
  · exact .inl ⟨hlt,
      { hrec with
        phase := hp.trans hs.phase
        inside := ⟨by simpa [hrow] using hs.inside.1, by simpa [hs.width] using hcol, hcomp⟩
        row := hrow ▸ hs.row
        ftype := by simp [hs.ftype]
        script := by simp [hsc, hpos', hrow] }, hpos', hrow⟩
  · exact .inr ⟨hend,
      { hrec with
        phase := by rw [hp, hrow]
        curCol := hcol
        curComp := hcomp
        script := by simp [hsc, hrow, hend, ← hwf] }, hrow⟩

/-! ## Runs -/

/-- The filtered bytes that are left of a row lead to the start of the next row. -/
theorem InRow.run_to_row_end (n : Nat) (hs : InRow w h rows rest l s) (hwf : l.samples.length = 3 * w.toNat)
    (hn : rowPos s + n = 3 * w.toNat) :
    ∃ t : State, run core n s = .next t ∧ AtRowStart w h rows rest t ∧ t.curRow.toNat = s.curRow.toNat + 1 := by
  induction n generalizing s with
  | zero =>
    obtain ⟨-, -, ⟨hlt, -⟩ | ⟨hend, -⟩⟩ := hs.step_consumes hwf <;> omega
  | succ n ih =>
    obtain ⟨u, hu, ⟨-, hin, hpos, hrow⟩ | ⟨hend, hstart, hrow⟩⟩ := hs.step_consumes hwf
    · obtain ⟨t, ht, hstart, hrow'⟩ := ih hin (by omega)
      exact ⟨t, by rw [run_succ n hu, ht], hstart, by rw [hrow', hrow]⟩
    · obtain rfl : n = 0 := by omega
      exact ⟨u, run_succ 0 hu, hstart, hrow⟩

/-- The `1 + 3W` bytes of a row lead to the start of the next row (R53, R54). -/
theorem AtRowStart.run_row (hs : AtRowStart w h rows rest s) (hw : 0 < w.toNat) (hlen : rows.length = h.toNat)
    (hwf : ∀ l ∈ rows, l.samples.length = 3 * w.toNat) (hr : s.curRow.toNat < h.toNat) :
    ∃ t : State, run core (1 + 3 * w.toNat) s = .next t ∧ AtRowStart w h rows rest t ∧
      t.curRow.toNat = s.curRow.toNat + 1 := by
  have hr' : s.curRow.toNat < rows.length := hlen ▸ hr
  obtain ⟨u, hu, hin, hpos, hrow⟩ := hs.step_opens_row hw hr (List.getElem?_eq_getElem hr')
  obtain ⟨t, ht, hstart, hrow'⟩ := hin.run_to_row_end (3 * w.toNat) (hwf _ (List.getElem_mem hr')) (by omega)
  exact ⟨t, by rw [Nat.add_comm, run_succ _ hu, ht], hstart, by rw [hrow', hrow]⟩

/-- The bytes of the last `n` rows lead to the end of the image. -/
theorem AtRowStart.run_rows (n : Nat) (hs : AtRowStart w h rows rest s) (hw : 0 < w.toNat) (hlen : rows.length = h.toNat)
    (hwf : ∀ l ∈ rows, l.samples.length = 3 * w.toNat) (hn : s.curRow.toNat + n = h.toNat) :
    ∃ t : State, run core (n * (1 + 3 * w.toNat)) s = .next t ∧ AtRowStart w h rows rest t ∧ t.curRow = h := by
  induction n generalizing s with
  | zero => exact ⟨s, by simp [run], hs, BitVec.eq_of_toNat_eq hn⟩
  | succ n ih =>
    obtain ⟨u, hu, hstart, hrow⟩ := hs.run_row hw hlen hwf (by omega)
    obtain ⟨t, ht, hend⟩ := ih hstart (by omega)
    exact ⟨t, by rw [Nat.succ_mul, Nat.add_comm, run_add hu, ht], hend⟩

end Pass

theorem streamWf_iff {w h : Nat} {rows : List Scanline} :
    streamWf w h rows = true ↔
      1 ≤ w ∧ 1 ≤ h ∧ rows.length = h ∧ ∀ l ∈ rows, l.samples.length = 3 * w := by
  simp [streamWf, Scanline.wf, and_assoc]

/-- Stream offset 0 is the first filter-type byte of a session (R21). -/
theorem filter_of_streamOffset_zero {s : State} (h : streamOffset s = some 0) : s.phase = .filter ∧ s.curRow = 0 := by
  obtain hp | hp := busy_of_streamOffset h <;> simp only [streamOffset, hp, Option.some.injEq] at h
  · obtain hrow | hzero := Nat.mul_eq_zero.mp h
    · exact ⟨hp, BitVec.eq_of_toNat_eq hrow⟩
    · omega
  · omega

/-- At stream offset 0 the pass over a stream has begun, with no cell written yet. -/
theorem atRowStart_of_streamOffset_zero {s : State} {rows : List Scanline} {rest : List HostOp} (hinv : MachineInv s)
    (h0 : streamOffset s = some 0) (hsc : s.script = pushes (encodeStream rows) ++ rest) :
    AtRowStart s.sessW s.sessH rows rest s := by
  obtain ⟨hp, hrow⟩ := filter_of_streamOffset_zero h0
  obtain ⟨-, -, hbusy, hfilter, -, -, -, -, hgrid, -⟩ := hinv
  obtain ⟨hw, hh, hdone⟩ := hbusy (by rw [hp]; rfl)
  obtain ⟨hlt, hcol, hcomp⟩ := hfilter hp
  exact
    { width := hw, height := hh, sessW := rfl, sessH := rfl, rowsDone := hdone, keys := hgrid
      cells := fun r c k l _ _ _ hlt => by simp [cursorAddr, gridAddr, hrow, hcol, hcomp] at hlt
      phase := by rw [hp, if_neg hlt.ne]
      curCol := hcol, curComp := hcomp, script := by simpa [hrow] using hsc }

/-- Settles O52: from offset 0 the pass is at a row start, each row of bytes leads to the next row start, and at the row start
after the last row every cell lies before the cursor, so is reconstructed. -/
theorem fullStreamReconstructsTheImage : Obligations.FullStreamReconstructsTheImage := by
  intro s rows rest hinv h0 hwf hsc
  obtain ⟨hw, -, hlen, hrows⟩ := streamWf_iff.mp hwf
  have hs := atRowStart_of_streamOffset_zero hinv h0 hsc
  have hrow : s.curRow.toNat = 0 := by simp [(filter_of_streamOffset_zero h0).2]
  obtain ⟨t, ht, hend, hlast⟩ := hs.run_rows s.sessH.toNat hw hlen hrows (by omega)
  refine ⟨t, ht, by simp [hend.phase, hlast], ?_, hend.rowsDone.trans hlast, hend.sessW, hend.sessH, ?_⟩
  · simpa [hlast, ← hlen, encodeStream, pushes] using hend.script
  · intro r c k l hl hc hk
    have hr : r < s.sessH.toNat := hlen ▸ (List.getElem?_eq_some_iff.mp hl).1
    refine hend.cells r c k l hl hc hk ?_
    rw [cursorAddr, hend.curCol, hend.curComp, hend.sessW, hlast]
    exact (gridAddr_lt_row hc hk).mpr hr

end Sys2Proof.Machine

/-! What a step does to the block, said once: `StepCase` by effect instead of by host operation, with the sample step split at
the end of a row (R70). Every safety statement about steps is a case analysis on it. -/

namespace Sys2Proof.Machine

/-- A write to an unwritten cell leaves every written one alone (R38). -/
theorem Memory.read_write_free {m : Memory} {a b : Nat} {x v : Byte} (hfree : Memory.read m b = none)
    (ha : Memory.read m a = some v) : Memory.read (Memory.write m b x) a = some v := by
  have hab : a ≠ b := by
    rintro rfl
    simp [hfree] at ha
  rw [Memory.read_write_other m b a x hab, ha]

/-- A counter below a bound does not wrap. -/
theorem toNat_succ_of_lt {x y : Word} (h : x.toNat < y.toNat) : (x + 1).toNat = x.toNat + 1 := by
  bv_omega

/-- `s` after the last filtered byte of a row, `x` being the reconstructed one (R70). -/
def endRow (x : Byte) (s : State) : State :=
  { s with
    grid := Memory.write s.grid (cellAddr s) x, curComp := 0, curCol := 0, rowsDone := s.rowsDone + 1,
    curRow := s.curRow + 1, phase := if s.curRow.toNat + 1 = s.height.toNat then .done else .filter }

/-- What a step from `s` to `t` does to the block. -/
inductive BlockEvent (s t : State) : Prop where
  /-- No byte is consumed, and at most the host's side changes. -/
  | quiet (ops : List HostOp) (r : Option Reply) (hport : s.phase.busy = true → portByte s = none)
      (ht : t = { s with script := ops, reply := r })
  /-- A write of WIDTH or HEIGHT (R84). -/
  | resize (w h : Word) (rest : List HostOp) (hb : s.phase.busy = false)
      (ht : t = { s with width := w, height := h, script := rest })
  /-- An admitted START (R86). -/
  | start (v : Word) (rest : List HostOp) (h : s.script = .wr 0 v :: rest) (hv : v.getLsbD 0 = true)
      (ha : startAdmitted s = true) (ht : t = { beginSession s with script := rest })
  /-- A valid filter-type byte (R68). -/
  | select (f : Byte) (m : IfNotAccepted) (rest : List HostOp) (h : s.script = .push f m :: rest)
      (hp : s.phase = .filter) (hf : f.toNat ≤ 4)
      (ht : t = { s with ftype := f.setWidth 3, phase := .sample, script := rest })
  /-- An illegal filter-type byte (R95). -/
  | badFilter (f : Byte) (m : IfNotAccepted) (rest : List HostOp) (h : s.script = .push f m :: rest)
      (hp : s.phase = .filter) (hf : 4 < f.toNat)
      (ht : t = { raiseFormatError badFilterType s.curRow f s with script := rest })
  /-- A filtered byte that is not the last of its row: the cursor moves to the next component of the row. -/
  | withinRow (f : Byte) (m : IfNotAccepted) (rest : List HostOp) (x : Byte) (c : Word) (k : BitVec 2)
      (h : s.script = .push f m :: rest) (hp : s.phase = .sample) (hin : CursorInside s)
      (hfree : Memory.read s.grid (cellAddr s) = none) (hc : c.toNat < s.width.toNat) (hk : k.toNat < 3)
      (hpos : 3 * c.toNat + k.toNat = rowPos s + 1)
      (ht : t = { s with grid := Memory.write s.grid (cellAddr s) x, curCol := c, curComp := k, script := rest })
  /-- The last filtered byte of a row. -/
  | rowEnd (f : Byte) (m : IfNotAccepted) (rest : List HostOp) (x : Byte) (h : s.script = .push f m :: rest)
      (hp : s.phase = .sample) (hin : CursorInside s) (hfree : Memory.read s.grid (cellAddr s) = none)
      (hpos : rowPos s + 1 = 3 * s.width.toNat)
      (ht : t = { endRow x s with script := rest })
  /-- RESET (R108). -/
  | reset (rest : List HostOp) (h : s.script = .reset :: rest) (ht : t = { resetBlock s with script := rest })

variable {s t : State} {rest : List HostOp}

/-- A sample step that goes on is one of the two events of a row. -/
theorem blockEvent_of_sampleStep {f : Byte} {m : IfNotAccepted} {predict : Neighbours → Byte}
    (h : s.script = .push f m :: rest) (hp : s.phase = .sample) (hs : sampleStep predict f s = .next t) :
    BlockEvent s t := by
  obtain ⟨n, -, hin, hfree, rfl⟩ := sampleStep_eq_next.mp hs
  have ⟨_, hcol, hcomp⟩ := hin
  rcases advance_cases { s with grid := Memory.write s.grid (cellAddr s) (modAdd f (predict n)) } with
    ⟨hk, e⟩ | ⟨hk, hc, e⟩ | ⟨hk, hc, e⟩ <;> dsimp only at hk
  · have hk' : (s.curComp + 1).toNat = s.curComp.toNat + 1 := by bv_omega
    exact .withinRow f m rest (modAdd f (predict n)) s.curCol (s.curComp + 1) h hp hin hfree hcol (by omega)
      (by unfold rowPos; omega) (by rw [← cellAddr, e]; simp [opDone, h])
  · have hc' : (s.curCol + 1).toNat = s.curCol.toNat + 1 := toNat_succ_of_lt hcol
    exact .withinRow f m rest (modAdd f (predict n)) (s.curCol + 1) 0 h hp hin hfree (hc' ▸ hc) (by decide)
      (by rw [hc', rowPos, show (0 : BitVec 2).toNat = 0 from rfl]; omega) (by rw [← cellAddr, e]; simp [opDone, h])
  · dsimp only at hc
    exact .rowEnd f m rest (modAdd f (predict n)) h hp hin hfree (by unfold rowPos; omega)
      (by rw [← cellAddr, e]; simp [opDone, endRow, h])

theorem portByte_eq_none_of_not_push (h : ∀ f m rest, s.script ≠ .push f m :: rest) : portByte s = none := by
  rw [Option.eq_none_iff_forall_ne_some]
  intro f hf
  obtain ⟨m, rest, hsc⟩ := portByte_eq_some.mp hf
  exact h f m rest hsc

/-- Everything a step that goes on can do to the block. -/
theorem blockEvent_of_step (h : step s = .next t) : BlockEvent s t := by
  cases step_cases h with
  | silent h ht => exact .quiet s.script s.reply (fun _ => portByte_eq_none_of_not_push (by simp [h])) ht
  | rd i rest h ht => exact .quiet _ _ (fun _ => portByte_eq_none_of_not_push (by simp [h])) ht
  | wrIgnored i v rest h ht => exact .quiet rest s.reply (fun _ => portByte_eq_none_of_not_push (by simp [h])) ht
  | wrWidth i v rest h hi hb ht => exact .resize v s.height rest hb ht
  | wrHeight i v rest h hi hb ht => exact .resize s.width v rest hb ht
  | start i v rest h hi hv ha ht =>
    obtain rfl := regOfIndex_ctrl.mp hi
    exact .start v rest h hv ha ht
  | select f m rest h hp hf ht => exact .select f m rest h hp hf ht
  | badFilter f m rest h hp hf ht => exact .badFilter f m rest h hp hf ht
  | sample f m rest i h hp hq hs => exact blockEvent_of_sampleStep h hp hs
  | rejected f m rest h hb ht =>
    rw [notAccepted_eq h] at ht
    exact .quiet _ s.reply (by simp [hb]) ht
  | grd a v rest h hp ha hv ht => exact .quiet rest _ (by simp [hp, Phase.busy]) ht
  | reset rest h ht => exact .reset rest h ht

/-! ## Single host operations -/

/-- A START that goes on begins a session. -/
theorem eq_beginSession_of_step {v : Word} (h : s.script = .wr 0 v :: rest) (hv : v.getLsbD 0 = true)
    (hs : step s = .next t) : t = opDone (beginSession s) := by
  have hstart : step s = hostStart s := by
    rw [step_wr h, hostWrite, regOfIndex_ctrl.mpr rfl]
    exact if_pos hv
  rw [hstart, hostStart] at hs
  split_ifs at hs
  exact (Host.Outcome.next.inj hs).symm

/-- A byte pushed while BUSY is consumed, by one of four events (R87). -/
theorem consumed_of_push {f : Byte} {m : IfNotAccepted} (hb : s.phase.busy = true) (hsc : s.script = .push f m :: rest)
    (hs : step s = .next t) :
    (s.phase = .filter ∧ f.toNat ≤ 4 ∧ t = { s with ftype := f.setWidth 3, phase := .sample, script := rest }) ∨
    (s.phase = .filter ∧ 4 < f.toNat ∧ t = { raiseFormatError badFilterType s.curRow f s with script := rest }) ∨
    (s.phase = .sample ∧ CursorInside s ∧ ∃ (x : Byte) (c : Word) (k : BitVec 2),
      c.toNat < s.width.toNat ∧ k.toNat < 3 ∧ 3 * c.toNat + k.toNat = rowPos s + 1 ∧
        t = { s with grid := Memory.write s.grid (cellAddr s) x, curCol := c, curComp := k, script := rest }) ∨
    (s.phase = .sample ∧ CursorInside s ∧ rowPos s + 1 = 3 * s.width.toNat ∧
      ∃ x : Byte, t = { endRow x s with script := rest }) := by
  cases blockEvent_of_step hs with
  | quiet ops r hport ht => simp [portByte_push hsc, hb] at hport
  | resize w h rest hb' ht => simp [hb] at hb'
  | start v rest h hv ha ht => simp [hsc] at h
  | select f m rest h hp hf ht =>
    obtain ⟨⟨rfl, -⟩, rfl⟩ := by simpa [hsc] using h
    exact .inl ⟨hp, hf, ht⟩
  | badFilter f m rest h hp hf ht =>
    obtain ⟨⟨rfl, -⟩, rfl⟩ := by simpa [hsc] using h
    exact .inr (.inl ⟨hp, hf, ht⟩)
  | withinRow f m rest x c k h hp hin hfree hc hk hpos ht =>
    obtain ⟨⟨rfl, -⟩, rfl⟩ := by simpa [hsc] using h
    exact .inr (.inr (.inl ⟨hp, hin, x, c, k, hc, hk, hpos, ht⟩))
  | rowEnd f m rest x h hp hin hfree hpos ht =>
    obtain ⟨⟨rfl, -⟩, rfl⟩ := by simpa [hsc] using h
    exact .inr (.inr (.inr ⟨hp, hin, hpos, x, ht⟩))
  | reset rest h ht => simp [hsc] at h

end Sys2Proof.Machine

/-! What a step can change: sizes, selector, row count, phase and written cells. -/

namespace Sys2Proof.Machine

variable {s t : State} {rest : List HostOp}

/-- The last filtered byte of a row is its last pixel's third component. -/
theorem rowPos_succ_eq_iff (hin : CursorInside s) :
    rowPos s + 1 = 3 * s.width.toNat ↔ s.curComp = 2 ∧ s.curCol.toNat + 1 = s.width.toNat := by
  obtain ⟨-, hcol, hcomp⟩ := hin
  have hk : s.curComp = 2 ↔ s.curComp.toNat = 2 := by simp [← BitVec.toNat_inj]
  rw [hk, rowPos]
  omega

/-- Settles O8: no event of a step but START and RESET writes a cell that is not free. -/
theorem writtenCellIsImmutable : Obligations.WrittenCellIsImmutable := by
  intro s t a v hstep hread
  cases blockEvent_of_step hstep with
  | quiet ops r hport ht => exact .inl (ht ▸ hread)
  | resize w h rest hb ht => exact .inl (ht ▸ hread)
  | start x rest h hv ha ht => exact .inr ⟨by rw [ht]; rfl, .inl ⟨x, rest, h, hv, by rw [ht]; rfl⟩⟩
  | select f m rest h hp hf ht => exact .inl (ht ▸ hread)
  | badFilter f m rest h hp hf ht => exact .inl (ht ▸ hread)
  | withinRow f m rest x c k h hp hin hfree hc hk hpos ht => exact .inl (ht ▸ Memory.read_write_free hfree hread)
  | rowEnd f m rest x h hp hin hfree hpos ht => exact .inl (ht ▸ Memory.read_write_free hfree hread)
  | reset rest h ht => exact .inr ⟨by rw [ht]; rfl, .inr ⟨rest, h⟩⟩

/-- Settles O34: START and the writes of WIDTH and HEIGHT are not possible while BUSY. -/
theorem sizesAreFixedWhileBusy : Obligations.SizesAreFixedWhileBusy := by
  intro s t hstep hphase hreset
  have hbusy : s.phase.busy = true := (Phase.busy_iff _).mpr hphase
  cases blockEvent_of_step hstep with
  | quiet ops r hport ht => simp [ht]
  | resize w h rest hb ht => simp [hbusy] at hb
  | start v rest h hv ha ht => simp [startAdmitted_iff, hbusy] at ha
  | select f m rest h hp hf ht => simp [ht]
  | badFilter f m rest h hp hf ht => simp [ht]
  | withinRow f m rest x c k h hp hin hfree hc hk hpos ht => simp [ht]
  | rowEnd f m rest x h hp hin hfree hpos ht => simp [ht, endRow]
  | reset rest h ht => exact absurd h (hreset rest)

/-- Settles O40: among the events, `select`, `start` and `reset` alone write FTYPE. -/
theorem selectorChangesOnlyOnItsEvents : Obligations.SelectorChangesOnlyOnItsEvents := by
  intro s t hstep
  cases blockEvent_of_step hstep with
  | quiet ops r hport ht => simp [ht]
  | resize w h rest hb ht => simp [ht]
  | start v rest h hv ha ht => exact .inr (.inr ⟨by simp [ht], .inl ⟨v, rest, h, hv⟩⟩)
  | select f m rest h hp hf ht =>
    have hq : t.ftype.toNat = f.toNat := by rw [ht, BitVec.toNat_setWidth]; omega
    exact .inr (.inl ⟨hp, f, m, rest, h, hf, hq⟩)
  | badFilter f m rest h hp hf ht => simp [ht]
  | withinRow f m rest x c k h hp hin hfree hc hk hpos ht => simp [ht]
  | rowEnd f m rest x h hp hin hfree hpos ht => simp [ht, endRow]
  | reset rest h ht => exact .inr (.inr ⟨by simp [ht], .inr ⟨rest, h⟩⟩)

/-- Settles O42: the events that write PHASE, each with its condition. -/
theorem phaseChangesOnlyOnItsEvents : Obligations.PhaseChangesOnlyOnItsEvents := by
  intro s t hstep hne
  cases blockEvent_of_step hstep with
  | quiet ops r hport ht => simp [ht] at hne
  | resize w h rest hb ht => simp [ht] at hne
  | start v rest h hv ha ht =>
    obtain ⟨hb, -⟩ := (startAdmitted_iff s).mp ha
    obtain ⟨-, hp⟩ := (Phase.not_busy_iff _).mp hb
    exact .inr (.inr (.inr (.inr (.inl ⟨hp, by simp [ht], v, rest, h, hv⟩))))
  | select f m rest h hp hf ht => exact .inl ⟨hp, by rw [ht], f, m, rest, h, hf⟩
  | badFilter f m rest h hp hf ht => exact .inr (.inl ⟨hp, by simp [ht], f, m, rest, h, hf⟩)
  | withinRow f m rest x c k h hp hin hfree hc hk hpos ht => simp [ht] at hne
  | rowEnd f m rest x h hp hin hfree hpos ht =>
    obtain ⟨hk, hc⟩ := (rowPos_succ_eq_iff hin).mp hpos
    obtain ⟨hr, -⟩ := hin
    by_cases hlast : s.curRow.toNat + 1 = s.height.toNat
    · exact .inr (.inr (.inr (.inl ⟨hp, by simp [ht, endRow, hlast], hk, hc, hlast, f, m, rest, h⟩)))
    · exact .inr (.inr (.inl ⟨hp, by simp [ht, endRow, hlast], hk, hc, by omega, f, m, rest, h⟩))
  | reset rest h ht => exact .inr (.inr (.inr (.inr (.inr ⟨by simp [ht], rest, h⟩))))

/-! ## What an instruction leaves unchanged -/

/-- Settles O15: the selector code of an instruction has the value of its filter-type byte. -/
theorem instructionLoadsItsSelector : Obligations.InstructionLoadsItsSelector := by
  intro i s f m rest hp hsc
  have hcode : (selectorCode i).toNat = (encodeFT i).toNat := by cases i <;> rfl
  refine ⟨selectorCode i, hcode, ?_⟩
  rw [exec_filter hp (portByte_push hsc)]
  simp [opDone, selectRow, hsc]

/-- Settles O18: an instruction that goes on keeps the state, loads the selector, takes a sample step or does not accept its
byte. -/
theorem instructionFrame : Obligations.InstructionFrame := by
  intro i s t hexec
  rcases exec_cases hexec with ⟨-, rfl⟩ | ⟨f, -, hp, rfl⟩ | ⟨f, -, hp, hs⟩ | ⟨f, -, -, rfl⟩
  · simp [RowFrame]
  · simp [RowFrame, hp]
  · obtain ⟨n, -, -, -, rfl⟩ := sampleStep_eq_next.mp hs
    refine ⟨by simp [RowFrame], by simp, fun hns => absurd hp hns, fun a ha => ?_⟩
    rw [opDone_grid, advance_grid]
    exact Memory.read_write_other _ _ _ _ ha
  · simp [RowFrame]

end Sys2Proof.Machine

/-! The invariant (R34): what it says in each phase, then that each event keeps it. -/

namespace Sys2Proof.Machine

variable {s t : State} {rest : List HostOp}

/-! ## What the invariant says in each phase -/

/-- The size of a session (R85). -/
abbrev SessionFits (s : State) : Prop :=
  1 ≤ s.sessW.toNat ∧ 1 ≤ s.sessH.toNat ∧ 3 * s.sessW.toNat * s.sessH.toNat ≤ s.gridBytes

theorem machineInv_iff_of_idle (hp : s.phase = .idle) :
    MachineInv s ↔
      (s.curRow = 0 ∧ s.curCol = 0 ∧ s.curComp = 0 ∧ s.ftype = 0 ∧ s.rowsDone = 0) ∧
        (s.errKind = 0 ∧ s.errRow = 0 ∧ s.errByte = 0) ∧ GridInv s ∧ s.ftype.toNat ≤ 4 := by
  simp [MachineInv, hp, Phase.busy]

theorem machineInv_iff_of_filter (hp : s.phase = .filter) :
    MachineInv s ↔
      SessionFits s ∧ (s.width = s.sessW ∧ s.height = s.sessH ∧ s.rowsDone = s.curRow) ∧
        (s.curRow.toNat < s.sessH.toNat ∧ s.curCol = 0 ∧ s.curComp = 0) ∧
        (s.errKind = 0 ∧ s.errRow = 0 ∧ s.errByte = 0) ∧ GridInv s ∧ s.ftype.toNat ≤ 4 := by
  simp [MachineInv, hp, Phase.busy]

theorem machineInv_iff_of_sample (hp : s.phase = .sample) :
    MachineInv s ↔
      SessionFits s ∧ (s.width = s.sessW ∧ s.height = s.sessH ∧ s.rowsDone = s.curRow) ∧
        (s.curRow.toNat < s.sessH.toNat ∧ s.curCol.toNat < s.sessW.toNat ∧ s.curComp.toNat ≤ 2) ∧
        (s.errKind = 0 ∧ s.errRow = 0 ∧ s.errByte = 0) ∧ GridInv s ∧ s.ftype.toNat ≤ 4 := by
  simp [MachineInv, hp, Phase.busy]

theorem machineInv_iff_of_done (hp : s.phase = .done) :
    MachineInv s ↔
      SessionFits s ∧ (s.curRow = s.sessH ∧ s.curCol = 0 ∧ s.curComp = 0 ∧ s.rowsDone = s.sessH) ∧
        (s.errKind = 0 ∧ s.errRow = 0 ∧ s.errByte = 0) ∧ GridInv s ∧ s.ftype.toNat ≤ 4 := by
  simp [MachineInv, hp, Phase.busy]

theorem machineInv_iff_of_error (hp : s.phase = .error) :
    MachineInv s ↔
      SessionFits s ∧
        (s.curCol = 0 ∧ s.curComp = 0 ∧ s.rowsDone = s.errRow ∧ s.errRow = s.curRow ∧
          s.curRow.toNat < s.sessH.toNat ∧ s.errKind = badFilterType ∧ 5 ≤ s.errByte.toNat) ∧
        GridInv s ∧ s.ftype.toNat ≤ 4 := by
  simp [MachineInv, hp, Phase.busy]

theorem MachineInv.gridInv (h : MachineInv s) : GridInv s := by
  obtain ⟨-, -, -, -, -, -, -, -, hgrid, -⟩ := h
  exact hgrid

/-- In SAMPLE the cursor names a cell of the image (R34 I2). -/
theorem MachineInv.cursorInside (h : MachineInv s) (hp : s.phase = .sample) : CursorInside s := by
  obtain ⟨-, ⟨hw, hh, -⟩, ⟨hr, hc, hk⟩, -⟩ := (machineInv_iff_of_sample hp).mp h
  exact ⟨hh ▸ hr, hw ▸ hc, by omega⟩

/-- While BUSY the sample step stores to the cursor's address, as WIDTH is the session's W (R24, R79). -/
theorem cellAddr_eq_cursorAddr (hw : s.width = s.sessW) : cellAddr s = cursorAddr s := by
  rw [cellAddr, cursorAddr, hw]

/-! ## Each event keeps the invariant -/

theorem machineInv_resetBlock (s : State) : MachineInv (resetBlock s) := by
  rw [machineInv_iff_of_idle rfl]
  simp [GridInv, cursorAddr, gridAddr]

theorem machineInv_beginSession (ha : startAdmitted s = true) : MachineInv (beginSession s) := by
  obtain ⟨-, hw, hh, hfits⟩ := (startAdmitted_iff s).mp ha
  rw [machineInv_iff_of_filter rfl]
  refine ⟨⟨hw, hh, hfits⟩, ⟨rfl, rfl, rfl⟩, ⟨hh, rfl, rfl⟩, ⟨rfl, rfl, rfl⟩, ?_, Nat.zero_le _⟩
  simp [GridInv, cursorAddr, gridAddr]

/-- A write of WIDTH or HEIGHT outside BUSY: there the invariant speaks of the session's W and H alone. -/
theorem MachineInv.resize {w h : Word} (hinv : MachineInv s) (hb : s.phase.busy = false) :
    MachineInv { s with width := w, height := h, script := rest } := by
  obtain ⟨hidle, hsess, -, hothers⟩ := hinv
  exact ⟨hidle, hsess, fun hb' => absurd hb' (by simp [hb]), hothers⟩

/-- A valid filter-type byte opens the row at its first pixel. -/
theorem MachineInv.select {q : BitVec 3} (hinv : MachineInv s) (hp : s.phase = .filter) (hq : q.toNat ≤ 4) :
    MachineInv { s with ftype := q, phase := .sample, script := rest } := by
  obtain ⟨hfits, hsizes, ⟨hr, hc, hk⟩, hnoerr, hgrid, -⟩ := (machineInv_iff_of_filter hp).mp hinv
  rw [machineInv_iff_of_sample rfl]
  exact ⟨hfits, hsizes, ⟨hr, hc ▸ hfits.1, by simp [hk]⟩, hnoerr, hgrid, hq⟩

theorem MachineInv.badFilter {f : Byte} (hinv : MachineInv s) (hp : s.phase = .filter) (hf : 4 < f.toNat) :
    MachineInv { raiseFormatError badFilterType s.curRow f s with script := rest } := by
  obtain ⟨hfits, ⟨-, -, hrows⟩, ⟨hr, hc, hk⟩, -, hgrid, hq⟩ := (machineInv_iff_of_filter hp).mp hinv
  rw [machineInv_iff_of_error rfl]
  exact ⟨hfits, ⟨hc, hk, hrows, rfl, hr, rfl, hf⟩, hgrid, hq⟩

/-- The write at the cursor's address, when the cursor moves on to the next cell (R34 I3). -/
theorem gridInv_write {x : Byte} (hw : s.width = s.sessW) (hgrid : GridInv s)
    (ht : t.grid = Memory.write s.grid (cellAddr s) x) (hcur : cursorAddr t = cursorAddr s + 1) : GridInv t := by
  rw [GridInv, ht, hcur, cellAddr_eq_cursorAddr hw, Memory.keys_write_range hgrid]

theorem MachineInv.withinRow {x : Byte} {c : Word} {k : BitVec 2} (hinv : MachineInv s) (hp : s.phase = .sample)
    (hc : c.toNat < s.width.toNat) (hk : k.toNat < 3) (hpos : 3 * c.toNat + k.toNat = rowPos s + 1) :
    MachineInv { s with
      grid := Memory.write s.grid (cellAddr s) x, curCol := c, curComp := k, script := rest } := by
  obtain ⟨hfits, hsizes, ⟨hr, -, -⟩, hnoerr, hgrid, hq⟩ := (machineInv_iff_of_sample hp).mp hinv
  have ⟨hw, _, _⟩ := hsizes
  refine (machineInv_iff_of_sample (by exact hp)).mpr
    ⟨hfits, hsizes, ⟨hr, hw ▸ hc, Nat.le_of_lt_succ hk⟩, hnoerr, gridInv_write hw hgrid rfl ?_, hq⟩
  rw [cursorAddr_eq, cursorAddr_eq s, rowPos, hpos, Nat.add_assoc]

/-- At the end of a row the next cell is the first of the next row. -/
theorem cursorAddr_endRow {x : Byte} (hw : s.width = s.sessW) (hr : s.curRow.toNat < s.height.toNat)
    (hpos : rowPos s + 1 = 3 * s.width.toNat) : cursorAddr (endRow x s) = cursorAddr s + 1 := by
  have hrow : (endRow x s).curRow.toNat = s.curRow.toNat + 1 := toNat_succ_of_lt hr
  rw [cursorAddr_eq, cursorAddr_eq s, hrow, Nat.add_assoc, hpos, hw, Nat.succ_mul]
  rfl

theorem MachineInv.rowEnd {x : Byte} (hinv : MachineInv s) (hp : s.phase = .sample)
    (hpos : rowPos s + 1 = 3 * s.width.toNat) : MachineInv { endRow x s with script := rest } := by
  obtain ⟨hfits, ⟨hw, hh, hrows⟩, ⟨hr, -, -⟩, hnoerr, hgrid, hq⟩ := (machineInv_iff_of_sample hp).mp hinv
  have hsucc : (s.curRow + 1).toNat = s.curRow.toNat + 1 := toNat_succ_of_lt hr
  have hrows' : s.rowsDone + 1 = s.curRow + 1 := by rw [hrows]
  have hgrid' := gridInv_write (x := x) hw hgrid rfl (cursorAddr_endRow hw (hh ▸ hr) hpos)
  by_cases hlast : s.curRow.toNat + 1 = s.height.toNat
  · have hlast' : s.curRow + 1 = s.sessH := BitVec.eq_of_toNat_eq (by rw [hsucc, hlast, hh])
    exact (machineInv_iff_of_done (if_pos hlast)).mpr
      ⟨hfits, ⟨hlast', rfl, rfl, hrows'.trans hlast'⟩, hnoerr, hgrid', hq⟩
  · have hr' : (s.curRow + 1).toNat < s.sessH.toNat := by rw [hh] at hlast; omega
    exact (machineInv_iff_of_filter (if_neg hlast)).mpr
      ⟨hfits, ⟨hw, hh, hrows'⟩, ⟨hr', rfl, rfl⟩, hnoerr, hgrid', hq⟩

/-- Settles O46: the state at reset is its own reset. -/
theorem invariantHoldsAtReset : Obligations.InvariantHoldsAtReset := machineInv_resetBlock State.reset

/-- Settles O47: every event keeps the invariant. -/
theorem invariantIsKeptByEveryStep : Obligations.InvariantIsKeptByEveryStep := by
  intro s t hinv hstep
  cases blockEvent_of_step hstep with
  | quiet ops r hport ht => exact ht ▸ hinv
  | resize w h rest hb ht => exact ht ▸ hinv.resize hb
  | start v rest h hv ha ht => exact ht ▸ machineInv_beginSession ha
  | select f m rest h hp hf ht =>
    exact ht ▸ hinv.select hp (by rw [BitVec.toNat_setWidth]; exact (Nat.mod_le _ _).trans hf)
  | badFilter f m rest h hp hf ht => exact ht ▸ hinv.badFilter hp hf
  | withinRow f m rest x c k h hp hin hfree hc hk hpos ht => exact ht ▸ hinv.withinRow hp hc hk hpos
  | rowEnd f m rest x h hp hin hfree hpos ht => exact ht ▸ hinv.rowEnd hp hpos
  | reset rest h ht => exact ht ▸ machineInv_resetBlock s

end Sys2Proof.Machine

/-! The row count, the written cells and the stream offset under the invariant; STATUS and the state at reset. -/

namespace Sys2Proof.Machine

variable {s t : State} {rest : List HostOp}

/-! ## ROWS_DONE (R23) -/

/-- Under the invariant ROWS_DONE is a number of rows of the image. -/
theorem MachineInv.rowsDone_le (hinv : MachineInv s) : s.rowsDone.toNat ≤ s.sessH.toNat := by
  cases hp : s.phase with
  | idle =>
    obtain ⟨⟨-, -, -, -, hrows⟩, -⟩ := (machineInv_iff_of_idle hp).mp hinv
    simp [hrows]
  | filter =>
    obtain ⟨-, ⟨-, -, hrows⟩, ⟨hr, -⟩, -⟩ := (machineInv_iff_of_filter hp).mp hinv
    exact hrows ▸ hr.le
  | sample =>
    obtain ⟨-, ⟨-, -, hrows⟩, ⟨hr, -⟩, -⟩ := (machineInv_iff_of_sample hp).mp hinv
    exact hrows ▸ hr.le
  | done =>
    obtain ⟨-, ⟨-, -, -, hrows⟩, -⟩ := (machineInv_iff_of_done hp).mp hinv
    exact hrows ▸ le_refl _
  | error =>
    obtain ⟨-, ⟨-, -, hrows, hrow, hr, -⟩, -⟩ := (machineInv_iff_of_error hp).mp hinv
    rw [hrows, hrow]
    exact hr.le

/-- ROWS_DONE changes only at the end of a row, by START and by RESET. -/
theorem rowsDone_of_step (h : step s = .next t) :
    t.rowsDone = s.rowsDone ∨
      (t.rowsDone = s.rowsDone + 1 ∧ s.phase = .sample ∧ s.curComp = 2 ∧ s.curCol.toNat + 1 = s.width.toNat ∧
        ∃ f m rest, s.script = .push f m :: rest) ∨
      (t.rowsDone = 0 ∧
        ((∃ v rest, s.script = .wr 0 v :: rest ∧ v.getLsbD 0 = true) ∨ ∃ rest, s.script = .reset :: rest)) := by
  cases blockEvent_of_step h with
  | quiet ops r hport ht => simp [ht]
  | resize w h rest hb ht => simp [ht]
  | start v rest h hv ha ht => exact .inr (.inr ⟨by simp [ht], .inl ⟨v, rest, h, hv⟩⟩)
  | select f m rest h hp hf ht => simp [ht]
  | badFilter f m rest h hp hf ht => simp [ht]
  | withinRow f m rest x c k h hp hin hfree hc hk hpos ht => simp [ht]
  | rowEnd f m rest x h hp hin hfree hpos ht =>
    obtain ⟨hk, hc⟩ := (rowPos_succ_eq_iff hin).mp hpos
    exact .inr (.inl ⟨by rw [ht]; rfl, hp, hk, hc, f, m, rest, h⟩)
  | reset rest h ht => exact .inr (.inr ⟨by simp [ht], .inr ⟨rest, h⟩⟩)

/-- A byte accepted at the last component of a row counts the row. -/
theorem rowsDone_of_last_component {f : Byte} {m : IfNotAccepted} (hstep : step s = .next t) (hp : s.phase = .sample)
    (hk : s.curComp = 2) (hc : s.curCol.toNat + 1 = s.width.toNat) (hsc : s.script = .push f m :: rest) :
    t.rowsDone = s.rowsDone + 1 := by
  have hb : s.phase.busy = true := by rw [hp]; rfl
  obtain ⟨hp', -⟩ | ⟨hp', -⟩ | ⟨-, hin, x, c, k, hc', hk', hpos, -⟩ | ⟨-, -, -, x, rfl⟩ := consumed_of_push hb hsc hstep
  · simp [hp] at hp'
  · simp [hp] at hp'
  · have hend := (rowPos_succ_eq_iff hin).mpr ⟨hk, hc⟩
    omega
  · rfl

/-- Settles O41: the events that write ROWS_DONE, and the invariant after the step. -/
theorem rowsDoneCountsFinishedRows : Obligations.RowsDoneCountsFinishedRows := by
  intro s t hstep
  refine ⟨rowsDone_of_step hstep, ?_, ?_, fun hinv => (invariantIsKeptByEveryStep s t hinv hstep).rowsDone_le⟩
  · rintro hp hk hc ⟨f, m, rest, hsc⟩
    exact rowsDone_of_last_component hstep hp hk hc hsc
  · rintro (⟨v, rest, hsc, hv⟩ | ⟨rest, hsc⟩)
    · rw [eq_beginSession_of_step hsc hv hstep]
      rfl
    · rw [step_reset hsc, Host.Outcome.next.injEq] at hstep
      rw [← hstep]
      rfl

/-! ## The written cells in stream order (R34 I3, I5, I6) -/

theorem streamOffset_of_filter (hp : s.phase = .filter) :
    streamOffset s = some (s.curRow.toNat * (1 + 3 * s.width.toNat)) := by
  simp [streamOffset, hp]

theorem streamOffset_of_sample (hp : s.phase = .sample) :
    streamOffset s = some (s.curRow.toNat * (1 + 3 * s.width.toNat) + (1 + rowPos s)) := by
  simp [streamOffset, hp, rowPos, Nat.add_assoc]

/-- At the start of a row the cells before the cursor are those of the rows before it. -/
theorem gridAddr_lt_cursorAddr_of_rowStart {r c k : Nat} (hcol : s.curCol = 0) (hcomp : s.curComp = 0)
    (hc : c < s.sessW.toNat) (hk : k < 3) : gridAddr s.sessW.toNat r c k < cursorAddr s ↔ r < s.curRow.toNat := by
  rw [cursorAddr, hcol, hcomp]
  exact gridAddr_lt_row hc hk

/-- While BUSY the address order and the stream order of the cells agree at the cursor. -/
theorem MachineInv.gridAddr_lt_cursorAddr_iff {r c k n : Nat} (hinv : MachineInv s) (hn : streamOffset s = some n)
    (hc : c < s.sessW.toNat) (hk : k < 3) :
    gridAddr s.sessW.toNat r c k < cursorAddr s ↔ cellOffset s.sessW.toNat r c k < n := by
  obtain hp | hp := busy_of_streamOffset hn
  · obtain ⟨-, ⟨hw, -, -⟩, ⟨-, hcol, hcomp⟩, -⟩ := (machineInv_iff_of_filter hp).mp hinv
    rw [streamOffset_of_filter hp, Option.some.injEq, hw] at hn
    have hoff := cellOffset_lt_iff (r := r) (r' := s.curRow.toNat) hc hk (Nat.zero_le _)
    rw [Nat.add_zero, hn] at hoff
    rw [gridAddr_lt_cursorAddr_of_rowStart hcol hcomp hc hk, hoff]
    omega
  · obtain ⟨-, ⟨hw, -, -⟩, ⟨-, hcol, hcomp⟩, -⟩ := (machineInv_iff_of_sample hp).mp hinv
    rw [streamOffset_of_sample hp, Option.some.injEq, hw] at hn
    rw [← hn, cellOffset_lt_iff hc hk (by unfold rowPos; omega), cursorAddr, gridAddr_lt_iff hc hk hcol (by omega),
      rowPos]
    omega

/-- Settles O48: the written cells are those whose address is below the cursor's. -/
theorem writtenCellsAreThoseBeforeTheCursor : Obligations.WrittenCellsAreThoseBeforeTheCursor := by
  intro s hinv
  have hgrid := hinv.gridInv
  refine ⟨Memory.wf_of_keys_range _ _ hgrid, fun r c k hr hc hk => ?_⟩
  rw [Memory.read_isSome_of_keys hgrid]
  refine ⟨fun n hn => hinv.gridAddr_lt_cursorAddr_iff hn hc hk, fun hp => ?_, fun hp => ?_⟩
  · obtain ⟨-, ⟨hrow, hcol, hcomp, -⟩, -⟩ := (machineInv_iff_of_done hp).mp hinv
    rw [gridAddr_lt_cursorAddr_of_rowStart hcol hcomp hc hk, hrow]
    exact hr
  · obtain ⟨-, ⟨hcol, hcomp, -, hrow, -⟩, -⟩ := (machineInv_iff_of_error hp).mp hinv
    rw [gridAddr_lt_cursorAddr_of_rowStart hcol hcomp hc hk, hrow]

/-! ## A byte that is pushed while BUSY (R21) -/

/-- Before the end of the stream: a row at most the last, an offset at most the last of the row. -/
theorem MachineInv.streamOffset_lt {n : Nat} (hinv : MachineInv s) (hn : streamOffset s = some n) :
    n < s.sessH.toNat * (1 + 3 * s.sessW.toNat) := by
  have rowBound (hr : s.curRow.toNat < s.sessH.toNat) :
      (s.curRow.toNat + 1) * (1 + 3 * s.sessW.toNat) ≤ s.sessH.toNat * (1 + 3 * s.sessW.toNat) :=
    Nat.mul_le_mul_right _ hr
  obtain hp | hp := busy_of_streamOffset hn
  · obtain ⟨-, ⟨hw, -, -⟩, ⟨hr, -, -⟩, -⟩ := (machineInv_iff_of_filter hp).mp hinv
    rw [streamOffset_of_filter hp, Option.some.injEq, hw] at hn
    have := rowBound hr
    rw [Nat.succ_mul] at this
    omega
  · obtain ⟨-, ⟨hw, -, -⟩, ⟨hr, hcol, hcomp⟩, -⟩ := (machineInv_iff_of_sample hp).mp hinv
    rw [streamOffset_of_sample hp, Option.some.injEq, hw, rowPos] at hn
    have := rowBound hr
    rw [Nat.succ_mul] at this
    omega

/-- Under the invariant a push goes on while BUSY: the selector selects an instruction and the multiplexer finds its cells
written (R63). -/
theorem MachineInv.step_push_busy {f : Byte} {m : IfNotAccepted} (hinv : MachineInv s)
    (hp : s.phase = .filter ∨ s.phase = .sample) (hsc : s.script = .push f m :: rest) : ∃ t, step s = .next t := by
  obtain hp | hp := hp
  · by_cases hf : f.toNat ≤ 4
    · obtain ⟨i, hi⟩ := decodeFT_of_le hf
      exact ⟨_, (step_push hsc).trans ((hostPush_filter hp hi).trans (exec_filter hp (portByte_push hsc)))⟩
    · exact ⟨_, (step_push hsc).trans (hostPush_bad hp (by omega))⟩
  · obtain ⟨-, ⟨hw, -⟩, -, -, hgrid, hq⟩ := (machineInv_iff_of_sample hp).mp hinv
    obtain ⟨i, hi⟩ := exists_selectorCode hq
    rw [GridInv, ← cellAddr_eq_cursorAddr hw] at hgrid
    exact ⟨_, step_eq_sampled (l := ⟨i, []⟩) hp hi (hinv.cursorInside hp) hgrid hsc⟩

/-- A consumed byte moves the offset as R21 says. -/
theorem MachineInv.streamOffset_of_push {n : Nat} {f : Byte} {m : IfNotAccepted} (hinv : MachineInv s)
    (hn : streamOffset s = some n) (hsc : s.script = .push f m :: rest) (hstep : step s = .next t) :
    t.script = rest ∧
      (streamOffset t = some (n + 1) ∨ (t.phase = .error ∧ s.phase = .filter ∧ 5 ≤ f.toNat) ∨
        (t.phase = .done ∧ n + 1 = s.sessH.toNat * (1 + 3 * s.sessW.toNat))) := by
  obtain ⟨hp, -, rfl⟩ | ⟨hp, hf, rfl⟩ | ⟨hp, -, x, c, k, -, -, hpos, rfl⟩ | ⟨hp, ⟨hr, -⟩, hpos, x, rfl⟩ :=
    consumed_of_push ((Phase.busy_iff _).mpr (busy_of_streamOffset hn)) hsc hstep
  · obtain ⟨-, -, ⟨-, hcol, hcomp⟩, -⟩ := (machineInv_iff_of_filter hp).mp hinv
    rw [streamOffset_of_filter hp, Option.some.injEq] at hn
    refine ⟨rfl, .inl ?_⟩
    rw [streamOffset_of_sample rfl]
    simp [rowPos, hcol, hcomp, hn]
  · exact ⟨rfl, .inr (.inl ⟨rfl, hp, hf⟩)⟩
  · rw [streamOffset_of_sample hp, Option.some.injEq] at hn
    refine ⟨rfl, .inl ?_⟩
    rw [streamOffset_of_sample (by exact hp), ← hn, rowPos, hpos, Nat.add_assoc, Nat.add_assoc]
  · obtain ⟨-, ⟨hw, hh, -⟩, -⟩ := (machineInv_iff_of_sample hp).mp hinv
    rw [streamOffset_of_sample hp, Option.some.injEq] at hn
    have hrow : (endRow x s).curRow.toNat = s.curRow.toNat + 1 := toNat_succ_of_lt hr
    have hnext : n + 1 = (s.curRow.toNat + 1) * (1 + 3 * s.width.toNat) := by
      rw [← hn, Nat.succ_mul s.curRow.toNat]
      omega
    refine ⟨rfl, ?_⟩
    by_cases hlast : s.curRow.toNat + 1 = s.height.toNat
    · exact .inr (.inr ⟨if_pos hlast, by rw [hnext, hlast, hw, hh]⟩)
    · refine .inl ?_
      rw [streamOffset_of_filter (if_neg hlast), hnext, ← hrow]
      rfl

/-- Settles O50: a push while BUSY goes on, and its byte is consumed. -/
theorem acceptedByteAdvancesTheOffset : Obligations.AcceptedByteAdvancesTheOffset := by
  intro s n f m rest hinv hn hsc
  obtain ⟨t, ht⟩ := hinv.step_push_busy (busy_of_streamOffset hn) hsc
  exact ⟨hinv.streamOffset_lt hn, t, ht, hinv.streamOffset_of_push hn hsc ht⟩

/-! ## STATUS and the state at reset -/

/-- Settles O26: the word of each of the five phases. -/
theorem statusFields : Obligations.StatusFields := by
  intro p
  cases p <;> decide

/-- Every register reads 0 at reset (R108). -/
theorem readReg_reset (r : Reg) : readReg State.reset r = 0 := by
  cases r <;> rfl

/-- Settles O44: an index reads a register, which is 0, or is unmapped. -/
theorem resetState : Obligations.ResetState := by
  refine ⟨rfl, fun i => ?_, fun a => rfl⟩
  unfold readIndex
  split
  · exact readReg_reset _
  · rfl

end Sys2Proof.Machine

/-! The grid's address map (R39), and the host's two reads (R83, R90). -/

namespace Sys2Proof.Machine

/-- Settles O7: the quotients and remainders of an address name its cell, and the map is injective inside the image. -/
theorem addressMapNamesEachCellOnce : Obligations.AddressMapNamesEachCellOnce := by
  intro w h a
  refine ⟨fun ha => ?_, fun r c k hr hc hk => ⟨rfl, gridAddr_lt hr hc hk⟩⟩
  have haddr := gridAddr_decompose w a
  have hcell := gridAddr_decompose_lt ha
  have ⟨_, hc, hk⟩ := hcell
  exact ⟨_, _, _, hcell, haddr, fun r' c' k' _ hc' hk' ha' => gridAddr_inj hc' hk' hc hk (ha'.trans haddr.symm)⟩

/-- Settles O35: each of the two reads answers and leaves the script, and writes nothing else. -/
theorem readsHaveNoSideEffect : Obligations.ReadsHaveNoSideEffect := by
  rintro s t rest hstep (⟨i, hsc⟩ | ⟨a, hsc⟩)
  · rw [step_rd hsc, Host.Outcome.next.injEq] at hstep
    exact ⟨_, hstep.symm⟩
  · rw [step_grd hsc] at hstep
    obtain ⟨-, -, v, -, ht⟩ := hostGridRead_eq_next.mp hstep
    exact ⟨.byte v, by rw [ht, opDone, answer, hsc, List.tail_cons]⟩

end Sys2Proof.Machine

/-! The raw stream's decoder and encoder are inverse to each other (R53 to R55, R58): a scanline, then a stream of them. -/

namespace Sys2Proof

theorem Scanline.wf_iff {w : Nat} {l : Scanline} : l.wf w = true ↔ l.samples.length = 3 * w := by
  simp [Scanline.wf]

/-! ## One scanline -/

theorem decodeScanline_encodeScanline {w : Nat} {l : Scanline} (hl : l.wf w = true) (rest : List Byte) :
    decodeScanline w (encodeScanline l ++ rest) = .ok (l, rest) := by
  have hlen := Scanline.wf_iff.mp hl
  simp [decodeScanline, encodeScanline, decodeFT_eq_ok.mpr rfl, ← hlen]

/-- Bytes read as a scanline exactly when they begin with its encoding. -/
theorem decodeScanline_eq_ok {w : Nat} {bytes rest : List Byte} {l : Scanline} :
    decodeScanline w bytes = .ok (l, rest) ↔ l.wf w = true ∧ encodeScanline l ++ rest = bytes := by
  refine ⟨fun h => ?_, fun ⟨hl, hbytes⟩ => hbytes ▸ decodeScanline_encodeScanline hl rest⟩
  cases bytes with
  | nil => simp [decodeScanline] at h
  | cons f bytes =>
    rw [decodeScanline] at h
    split at h
    · cases h
    · next op hf =>
      split at h
      · next hlen =>
        cases h
        simp [Scanline.wf_iff, encodeScanline, decodeFT_eq_ok.mp hf, hlen]
      · cases h

theorem length_encodeScanline {w : Nat} {l : Scanline} (hl : l.wf w = true) :
    (encodeScanline l).length = 1 + 3 * w := by
  rw [encodeScanline, List.length_cons, Scanline.wf_iff.mp hl, Nat.add_comm]

/-! ## A stream of scanlines -/

theorem decodeStream_succ_eq_ok {w h : Nat} {bytes rest : List Byte} {rows : List Scanline} :
    decodeStream w (h + 1) bytes = .ok (rows, rest) ↔
      ∃ l ls mid, rows = l :: ls ∧ decodeScanline w bytes = .ok (l, mid) ∧ decodeStream w h mid = .ok (ls, rest) := by
  rw [decodeStream]
  split
  · next e he => simp [he]
  · next l mid hl =>
    split
    · next e he => simp [hl, he]
    · next ls rest' hls =>
      constructor
      · rintro ⟨⟩
        exact ⟨l, ls, mid, rfl, hl, hls⟩
      · rintro ⟨_, _, _, rfl, hl', hls'⟩
        cases hl.symm.trans hl'
        cases hls.symm.trans hls'
        rfl

/-- Bytes read as a stream of `h` scanlines exactly when they begin with its encoding. -/
theorem decodeStream_eq_ok {w h : Nat} {bytes rest : List Byte} {rows : List Scanline} :
    decodeStream w h bytes = .ok (rows, rest) ↔
      rows.length = h ∧ (∀ l ∈ rows, l.wf w = true) ∧ encodeStream rows ++ rest = bytes := by
  induction h generalizing bytes rows with
  | zero =>
    cases rows with
    | nil => simp [decodeStream, encodeStream, eq_comm (a := bytes)]
    | cons l ls => simp [decodeStream]
  | succ h ih =>
    simp only [decodeStream_succ_eq_ok, decodeScanline_eq_ok, ih]
    cases rows with
    | nil => simp
    | cons l ls =>
      constructor
      · rintro ⟨_, _, mid, ⟨⟩, ⟨hl, rfl⟩, rfl, hls, rfl⟩
        exact ⟨rfl, List.forall_mem_cons.mpr ⟨hl, hls⟩, List.append_assoc ..⟩
      · rintro ⟨hlen, hwf, rfl⟩
        obtain ⟨hl, hls⟩ := List.forall_mem_cons.mp hwf
        exact ⟨l, ls, _, rfl, ⟨hl, (List.append_assoc ..).symm⟩, Nat.succ.inj hlen, hls, rfl⟩

/-- Settles O4: the stream begins with the encoding of its scanlines. -/
theorem streamDecodesItsEncoding : Obligations.StreamDecodesItsEncoding :=
  fun _ _ _ hwf => decodeStream_eq_ok.mpr ⟨rfl, hwf, rfl⟩

/-- Settles O5, from the same characterisation of what a stream decodes to. -/
theorem streamEncodesItsDecoding : Obligations.StreamEncodesItsDecoding :=
  fun _ _ _ _ _ => decodeStream_eq_ok.mp

theorem length_encodeStream {w : Nat} {rows : List Scanline} (hwf : ∀ l ∈ rows, l.wf w = true) :
    (encodeStream rows).length = rows.length * (1 + 3 * w) := by
  induction rows with
  | nil => simp [encodeStream]
  | cons l ls ih =>
    obtain ⟨hl, hls⟩ := List.forall_mem_cons.mp hwf
    rw [encodeStream, List.length_append, length_encodeScanline hl, ih hls, List.length_cons, Nat.succ_mul ls.length,
      Nat.add_comm (1 + 3 * w)]

/-- The stream from offset `r * (1 + 3 * w)` is the stream of the scanlines from `r`. -/
theorem drop_encodeStream {w : Nat} {rows : List Scanline} (hwf : ∀ l ∈ rows, l.wf w = true) (r : Nat) :
    (encodeStream rows).drop (r * (1 + 3 * w)) = encodeStream (rows.drop r) := by
  induction r generalizing rows with
  | zero => simp
  | succ r ih =>
    cases rows with
    | nil => simp [encodeStream]
    | cons l ls =>
      obtain ⟨hl, hls⟩ := List.forall_mem_cons.mp hwf
      rw [encodeStream, Nat.succ_mul r, Nat.add_comm (r * _), ← List.drop_drop, ← length_encodeScanline hl, List.drop_left,
        length_encodeScanline hl, ih hls, List.drop_succ_cons]

/-- Settles O6: the stream from scanline `r` on begins with its encoding. -/
theorem scanlinesPartitionTheStream : Obligations.ScanlinesPartitionTheStream := by
  intro w rows hwf
  refine ⟨length_encodeStream hwf, fun r l hr => ?_⟩
  have hl : l.wf w = true := hwf l (List.mem_of_getElem? hr)
  rw [drop_encodeStream hwf, List.drop_eq_getElem?_toList_append, hr, Option.toList_some, List.singleton_append,
    encodeStream, ← length_encodeScanline hl, List.take_left]

/-! ## The filter-type byte (R56, R58, R59) -/

/-- Settles O1, word by word. -/
theorem opcodeWordsDecode : Obligations.OpcodeWordsDecode :=
  ⟨rfl, rfl, rfl, rfl, rfl, rfl, rfl⟩

/-- Settles O2: a byte that decodes is the byte of a filter type, which is at most 4. -/
theorem opcodeIsTheWholeByte : Obligations.OpcodeIsTheWholeByte :=
  fun _ => ⟨⟨fun ⟨i, hi⟩ => decodeFT_eq_ok.mp hi ▸ encodeFT_le i, decodeFT_of_le⟩, fun _ => decodeFT_eq_ok⟩

namespace Machine

/-- Settles O3: the push of an illegal byte raises FormatError. -/
theorem illegalFilterTypeRaisesFormatError : Obligations.IllegalFilterTypeRaisesFormatError := by
  intro s f m rest hp hsc hf
  refine ⟨decodeFT_of_gt hf, _, (step_push hsc).trans (hostPush_bad hp hf), rfl, rfl, ?_⟩
  simp [hsc]

end Machine

end Sys2Proof

/-! The datapath (spec/40_defilter.md section 1): the multiplexer's neighbours and their addresses, the two predictors that
compute, the adder. -/

namespace Sys2Proof.Machine

/-! ## The neighbours' addresses (R79) -/

theorem gridAddr_left {w r c k : Nat} (hc : 0 < c) : gridAddr w r (c - 1) k + 3 = gridAddr w r c k := by
  unfold gridAddr
  omega

theorem gridAddr_up {w r c k : Nat} (hr : 0 < r) : gridAddr w (r - 1) c k + 3 * w = gridAddr w r c k := by
  obtain ⟨r, rfl⟩ := Nat.exists_eq_add_one.mpr hr
  rw [gridAddr, gridAddr, Nat.add_sub_cancel, Nat.succ_mul r]
  omega

/-- Settles O13: the upper-left cell is the left one of the cell above. -/
theorem neighbourAddressesLieBelowTheStore : Obligations.NeighbourAddressesLieBelowTheStore := by
  intro w r c k hcw
  have left : 0 < c → gridAddr w r (c - 1) k + 3 = gridAddr w r c k := gridAddr_left
  have up : 0 < r → gridAddr w (r - 1) c k + 3 * w = gridAddr w r c k := gridAddr_up
  have upLeft (hr : 0 < r) (hc : 0 < c) : gridAddr w (r - 1) (c - 1) k + 3 * w + 3 = gridAddr w r c k := by
    rw [Nat.add_right_comm, gridAddr_left hc, gridAddr_up hr]
  refine ⟨left, up, upLeft, fun hc => ?_, fun hr => ?_, fun hr hc => ?_⟩
  · have := left hc
    omega
  · have := up hr
    omega
  · have := upLeft hr hc
    omega

/-! ## The boundary multiplexer (R62) -/

theorem toNat_pos_iff_ne_zero {x : Word} : 0 < x.toNat ↔ ¬ x = 0 := by
  rw [Nat.pos_iff_ne_zero, ← BitVec.toNat_inj]
  rfl

/-- An input whose cell, when it is read, lies inside the image delivers the written byte of the cell. -/
theorem muxInput_gridRead_eq_ok {inside : Bool} {w h r c k : Nat} {m : Memory} {v : Byte}
    (hin : inside = true → r < h ∧ c < w ∧ k < 3) :
    muxInput inside (gridRead w h m r c k) = .ok v ↔
      if inside then Memory.read m (gridAddr w r c k) = some v else v = 0 := by
  rw [muxInput_eq_ok]
  split_ifs with hi
  · rw [gridRead_eq_ok, and_iff_right (hin hi)]
  · rfl

/-- Inside the image the multiplexer delivers the neighbours the statements name. -/
theorem boundaryMux_eq_ok_iff_neighbours {s : State} {n : Neighbours} (hin : CursorInside s) :
    boundaryMux s = .ok n ↔ LeftIs s n.a ∧ UpIs s n.b ∧ UpLeftIs s n.c := by
  obtain ⟨hr, hc, hk⟩ := hin
  rw [boundaryMux_eq_ok, muxInput_gridRead_eq_ok fun _ => ⟨hr, by omega, hk⟩,
    muxInput_gridRead_eq_ok fun _ => ⟨by omega, hc, hk⟩, muxInput_gridRead_eq_ok fun _ => ⟨by omega, by omega, hk⟩]
  simp only [Bool.and_eq_true, decide_eq_true_eq, toNat_pos_iff_ne_zero, ← not_or, ite_not]

/-- Settles O9; FTYPE is no input of the multiplexer. -/
theorem boundaryMultiplexerDeliversNeighbours : Obligations.BoundaryMultiplexerDeliversNeighbours :=
  fun _ _ hin => ⟨boundaryMux_eq_ok_iff_neighbours hin, fun _ => rfl⟩

/-! ## The Average predictor and the adder (R64, R67) -/

/-- The 9-bit sum of two bytes is exact. -/
theorem toNat_sum_setWidth (a b : Byte) : (a.setWidth 9 + b.setWidth 9).toNat = a.toNat + b.toNat := by
  bv_omega

/-- Settles O10: bits 8:1 of the exact sum are its half. -/
theorem averageHalvesTheExactSum : Obligations.AverageHalvesTheExactSum := by
  intro a b
  refine ⟨average_toNat a b, BitVec.eq_of_toNat_eq ?_⟩
  rw [BitVec.extractLsb'_toNat, toNat_sum_setWidth, Nat.shiftRight_one]
  rfl

/-- Settles O12: the low 8 bits of the exact sum are its remainder. -/
theorem modularAdderDropsTheCarry : Obligations.ModularAdderDropsTheCarry := by
  intro s p
  refine ⟨modAdd_toNat s p, BitVec.eq_of_toNat_eq ?_⟩
  rw [modAdd_toNat, BitVec.toNat_setWidth, toNat_sum_setWidth]

/-! ## The Paeth predictor (R65) -/

/-- The Paeth choice by the simplified distances: the prediction cancels `a`, `b` or one `c`. -/
theorem paethPredictor_eq (a b c : Byte) :
    paethPredictor a b c =
      if ((b.toNat : Int) - c.toNat).natAbs ≤ ((a.toNat : Int) - c.toNat).natAbs ∧
          ((b.toNat : Int) - c.toNat).natAbs ≤ ((a.toNat : Int) + b.toNat - 2 * c.toNat).natAbs then a
      else if ((a.toNat : Int) - c.toNat).natAbs ≤ ((a.toNat : Int) + b.toNat - 2 * c.toNat).natAbs then b
      else c := by
  have left : (a.toNat : Int) + b.toNat - c.toNat - a.toNat = b.toNat - c.toNat := by ring
  have up : (a.toNat : Int) + b.toNat - c.toNat - b.toNat = a.toNat - c.toNat := by ring
  have upLeft : (a.toNat : Int) + b.toNat - c.toNat - c.toNat = a.toNat + b.toNat - 2 * c.toNat := by ring
  simp only [paethPredictor, left, up, upLeft]

/-- Settles O11: the distances are arithmetic on bytes, the choice is the one by the simplified distances. -/
theorem paethChoosesTheNearestNeighbour : Obligations.PaethChoosesTheNearestNeighbour := by
  intro a b c
  have ha := a.isLt
  have hb := b.isLt
  have hc := c.isLt
  simp only [paethPredictor_eq]
  refine ⟨by omega, by omega, fun hleft => if_pos hleft, fun hleft hup => ?_, fun hleft hup => ?_⟩
  · rw [if_neg hleft, if_pos hup]
  · rw [if_neg hleft, if_neg hup]

/-- In row 0 the prediction is left itself, at distance 0. -/
@[simp] theorem paethPredictor_row_zero (a : Byte) : paethPredictor a 0#8 0#8 = a := by
  simp [paethPredictor_eq]

/-- In column 0 the prediction is up itself; left is as near only when up is 0 too. -/
@[simp] theorem paethPredictor_col_zero (b : Byte) : paethPredictor 0#8 b 0#8 = b := by
  obtain rfl | hb := eq_or_ne b 0#8
  · exact paethPredictor_row_zero 0#8
  · have hb' : b.toNat ≠ 0 := fun h => hb (BitVec.eq_of_toNat_eq h)
    simp [paethPredictor_eq, hb']

/-- Left and up equally near, upper-left farther: left (R75). -/
theorem paethPredictor_of_left_tie {a b c : Byte}
    (htie : ((b.toNat : Int) - c.toNat).natAbs = ((a.toNat : Int) - c.toNat).natAbs)
    (hlt : ((a.toNat : Int) - c.toNat).natAbs < ((a.toNat : Int) + b.toNat - 2 * c.toNat).natAbs) :
    paethPredictor a b c = a := by
  rw [paethPredictor_eq, if_pos ⟨htie.le, htie ▸ hlt.le⟩]

/-- Up and upper-left equally near, left farther: up (R75). -/
theorem paethPredictor_of_up_tie {a b c : Byte}
    (htie : ((a.toNat : Int) - c.toNat).natAbs = ((a.toNat : Int) + b.toNat - 2 * c.toNat).natAbs)
    (hlt : ((a.toNat : Int) + b.toNat - 2 * c.toNat).natAbs < ((b.toNat : Int) - c.toNat).natAbs) :
    paethPredictor a b c = b := by
  rw [paethPredictor_eq, if_neg fun h => hlt.not_ge h.2, if_pos htie.le]

end Sys2Proof.Machine

/-! The consuming steps and the five filter types (spec/40_defilter.md sections 2 and 3): every instruction's sample step is
reconstructed once, from the predictor of its neighbours; the statement of each filter type is its predictor's value. -/

namespace Sys2Proof.Machine

variable {s t : State} {i : Instr} {f a b c : Byte}

/-! ## The consuming steps (R66, R68, R70, R87) -/

/-- The low three bits of a filter type's byte are its selector code (R22). -/
theorem eq_selectorCode_of_setWidth {q : BitVec 3} (h : q.setWidth 8 = encodeFT i) : q = selectorCode i := by
  rw [selectorCode, ← h, BitVec.setWidth_setWidth_of_le _ (by decide), BitVec.setWidth_eq]

/-- Settles O14: the push decodes in FILTER and goes by FTYPE in SAMPLE. -/
theorem stepRunsDecodedInstruction : Obligations.StepRunsDecodedInstruction := by
  intro s f m rest hsc
  rw [step_push hsc]
  exact ⟨fun i hp hf => hostPush_filter hp hf, fun i hp hq => hostPush_sample hp (eq_selectorCode_of_setWidth hq),
    hostPush_sample_bad⟩

/-- Settles O16: a byte 0..4 runs the instruction it decodes to, a byte 5..255 raises FormatError. -/
theorem filterTypeStep : Obligations.FilterTypeStep := by
  intro s f m rest hp hsc
  refine ⟨fun hf => ?_, fun hf => ?_⟩ <;> rw [step_push hsc]
  · obtain ⟨i, hi⟩ := decodeFT_of_le hf
    have hq : selectorCode i = f.setWidth 3 := by rw [decodeFT_eq_ok.mp hi, selectorCode]
    rw [hostPush_filter hp hi, exec_filter hp (portByte_push hsc), hq, opDone, selectRow, hsc, List.tail_cons]
  · rw [hostPush_bad hp hf, opDone, raiseFormatError, hsc, List.tail_cons]
    rfl

/-- Settles O17: a sample step that goes on has its cursor inside the image, where no counter of the advance wraps. -/
theorem sampleStepAdvancesTheCursor : Obligations.SampleStepAdvancesTheCursor := by
  intro i s t f m rest hp hsc hexec
  rw [exec_sample hp (portByte_push hsc)] at hexec
  obtain ⟨n, -, hin, -, rfl⟩ := sampleStep_eq_next.mp hexec
  exact advance_advanced (s := { s with grid := Memory.write s.grid _ _ }) hin

/-! ## One sample step of every filter type (R69) -/

/-- From a ready state an instruction goes on and stores the filtered byte plus the predictor of the neighbours, mod 256. -/
theorem SampleReady.reconstructs (h : SampleReady s f a b c) (i : Instr) :
    Reconstructs (exec i s) s ((f.toNat + (predictor i ⟨a, b, c⟩).toNat) % 256) := by
  obtain ⟨hp, hport, hin, hfree, hneighbours⟩ := h
  have hmux : boundaryMux s = .ok ⟨a, b, c⟩ := (boundaryMux_eq_ok_iff_neighbours hin).mpr hneighbours
  refine ⟨_, (exec_sample hp hport).trans (sampleStep_eq_next.mpr ⟨_, hmux, hin, hfree, rfl⟩), ?_, fun x hx => ?_,
    advance_advanced (s := { s with grid := Memory.write s.grid _ _ }) hin, ?_, ?_, ?_⟩
  · exact ⟨_, by rw [opDone_grid, advance_grid]; exact Memory.read_write_same _ _ _, modAdd_toNat _ _⟩
  · rw [opDone_grid, advance_grid]
    exact Memory.read_write_other _ _ _ _ hx
  · simp
  · simp [RowFrame]
  · simp

/-! ## The neighbours on the boundary (R62) -/

theorem SampleReady.left_eq_zero (h : SampleReady s f a b c) (hc : s.curCol = 0) : a = 0 := by
  obtain ⟨-, -, -, -, hleft, -, -⟩ := h
  exact (if_pos hc).mp hleft

theorem SampleReady.up_eq_zero (h : SampleReady s f a b c) (hr : s.curRow = 0) : b = 0 := by
  obtain ⟨-, -, -, -, -, hup, -⟩ := h
  exact (if_pos hr).mp hup

theorem SampleReady.upLeft_eq_zero (h : SampleReady s f a b c) (hrc : s.curRow = 0 ∨ s.curCol = 0) : c = 0 := by
  obtain ⟨-, -, -, -, -, -, hupLeft⟩ := h
  exact (if_pos hrc).mp hupLeft

/-! ## The five filter types -/

@[simp] theorem predictor_none (n : Neighbours) : predictor .none n = 0 := rfl
@[simp] theorem predictor_sub (n : Neighbours) : predictor .sub n = n.a := rfl
@[simp] theorem predictor_up (n : Neighbours) : predictor .up n = n.b := rfl
@[simp] theorem predictor_avg (n : Neighbours) : predictor .avg n = average n.a n.b := rfl
@[simp] theorem predictor_paeth (n : Neighbours) : predictor .paeth n = paethPredictor n.a n.b n.c := rfl

/-- A filtered byte is no larger than the adder's range. -/
theorem toNat_mod_256 (f : Byte) : f.toNat % 256 = f.toNat := Nat.mod_eq_of_lt f.isLt

/-- Settles O19: NONE predicts 0. -/
theorem noneIsTheIdentity : Obligations.NoneIsTheIdentity := by
  intro s f a b c h
  simpa [toNat_mod_256] using h.reconstructs .none

/-- Settles O20: SUB predicts left, which is 0 in column 0. -/
theorem subAddsLeft : Obligations.SubAddsLeft := by
  intro s f a b c h
  refine ⟨h.reconstructs .sub, fun hcol => ?_⟩
  obtain rfl := h.left_eq_zero hcol
  simpa [toNat_mod_256] using h.reconstructs .sub

/-- Settles O21: UP predicts up, which is 0 in row 0. -/
theorem upAddsUp : Obligations.UpAddsUp := by
  intro s f a b c h
  refine ⟨h.reconstructs .up, fun hrow => ?_⟩
  obtain rfl := h.up_eq_zero hrow
  simpa [toNat_mod_256] using h.reconstructs .up

/-- Settles O22: AVG predicts the half of the exact sum; on the boundary a summand is 0. -/
theorem avgAddsTheAverage : Obligations.AvgAddsTheAverage := by
  intro s f a b c h
  have havg : Reconstructs (exec .avg s) s ((f.toNat + (a.toNat + b.toNat) / 2) % 256) := by
    simpa [average_toNat] using h.reconstructs .avg
  refine ⟨havg, fun hcol => ?_, fun hrow => ?_, fun hrow hcol => ?_, fun ha hb => ?_⟩
  · simpa [h.left_eq_zero hcol] using havg
  · simpa [h.up_eq_zero hrow] using havg
  · simpa [h.left_eq_zero hcol, h.up_eq_zero hrow, toNat_mod_256] using havg
  · simpa [ha, hb] using havg

/-- Settles O23: PAETH predicts the Paeth choice, which is left in row 0 and up in column 0. -/
theorem paethAddsTheChoice : Obligations.PaethAddsTheChoice := by
  refine ⟨fun s f a b c h => ?_, fun a b c => ⟨?_, paethPredictor_of_left_tie, paethPredictor_of_up_tie⟩, rfl, rfl⟩
  · have hpaeth : Reconstructs (exec .paeth s) s ((f.toNat + (paethPredictor a b c).toNat) % 256) :=
      h.reconstructs .paeth
    refine ⟨hpaeth, fun hrow => ?_, fun hcol _ => ?_, fun hrow hcol => ?_⟩
    · simpa [h.up_eq_zero hrow, h.upLeft_eq_zero (.inl hrow)] using hpaeth
    · simpa [h.left_eq_zero hcol, h.upLeft_eq_zero (.inr hcol)] using hpaeth
    · simpa [h.left_eq_zero hcol, h.up_eq_zero hrow, h.upLeft_eq_zero (.inl hrow), toNat_mod_256] using hpaeth
  · rintro rfl rfl
    simp [paethPredictor_eq]

/-! ## The lanes (R77) -/

/-- Two grids that agree on the cells of one component. -/
def AgreeOnLane (k : Nat) (m m' : Memory) : Prop := ∀ a, a % 3 = k → Memory.read m' a = Memory.read m a

theorem AgreeOnLane.read_gridAddr {w r col k : Nat} {m m' : Memory} (h : AgreeOnLane k m m') (hk : k < 3) :
    Memory.read m' (gridAddr w r col k) = Memory.read m (gridAddr w r col k) :=
  h _ (gridAddr_mod w r col hk)

/-- The multiplexer reads the lane of the cursor's component alone (R62). -/
theorem boundaryMux_of_agreeOnLane {s s' : State} {n : Neighbours} (hin : CursorInside s)
    (hw : s'.width = s.width) (hh : s'.height = s.height) (hr : s'.curRow = s.curRow) (hc : s'.curCol = s.curCol)
    (hk : s'.curComp = s.curComp) (hlane : AgreeOnLane s.curComp.toNat s.grid s'.grid) (hn : boundaryMux s = .ok n) :
    boundaryMux s' = .ok n := by
  have hin' : CursorInside s' := by rwa [CursorInside, hr, hh, hc, hw, hk]
  have ⟨_, _, hk3⟩ := hin
  rw [boundaryMux_eq_ok_iff_neighbours hin] at hn
  simpa only [boundaryMux_eq_ok_iff_neighbours hin', LeftIs, UpIs, UpLeftIs, hw, hr, hc, hk,
    hlane.read_gridAddr hk3] using hn

/-- What a sample step that goes on stores. -/
theorem read_cellAddr_of_exec_sample (hp : s.phase = .sample) (hport : portByte s = some f) (h : exec i s = .next t) :
    ∃ n, boundaryMux s = .ok n ∧ CursorInside s ∧
      Memory.read t.grid (cellAddr s) = some (modAdd f (predictor i n)) := by
  rw [exec_sample hp hport] at h
  obtain ⟨n, hn, hin, -, rfl⟩ := sampleStep_eq_next.mp h
  refine ⟨n, hn, hin, ?_⟩
  rw [opDone_grid, advance_grid]
  exact Memory.read_write_same _ _ _

/-- Settles O24: the two sample steps have the same neighbours, so store the same sum. -/
theorem lanesAreIndependent : Obligations.LanesAreIndependent := by
  intro i s s' t t' f hp hp' hport hport' hw hh hr hc hk hlane hexec hexec'
  obtain ⟨n, hn, hin, hread⟩ := read_cellAddr_of_exec_sample hp hport hexec
  obtain ⟨n', hn', -, hread'⟩ := read_cellAddr_of_exec_sample hp' hport' hexec'
  have hsame := boundaryMux_of_agreeOnLane hin hw hh hr hc hk hlane hn
  obtain rfl : n = n' := Except.ok.inj (hsame.symm.trans hn')
  rw [hread, hread']

end Sys2Proof.Machine

/-! No model fault is reachable (R63, R98): under the invariant a step goes on, or the host broke one of its duties. -/

namespace Sys2Proof.Machine

variable {s : State} {rest : List HostOp}

/-- How a step ends that neither faults nor runs into an instruction without a meaning: it goes on, or one of the three refusals
of R98 stops it. -/
inductive GoesOnOrHostErrs (o : Host.Outcome State Fault Refusal) : Prop where
  | next (t : State) (h : o = .next t)
  | configWrite (h : o = .refused .configWriteWhileBusy)
  | start (h : o = .refused .startNotAdmitted)
  | gridRead (h : o = .refused .gridReadNotHandedOff)

theorem hostStart_goesOnOrHostErrs (s : State) : GoesOnOrHostErrs (hostStart s) := by
  unfold hostStart
  split_ifs
  · exact .next _ rfl
  · exact .start rfl

theorem hostWrite_goesOnOrHostErrs (r : BitVec 8) (v : Word) (s : State) : GoesOnOrHostErrs (hostWrite r v s) := by
  unfold hostWrite
  split
  · split_ifs
    · exact hostStart_goesOnOrHostErrs s
    · exact .next _ rfl
  · split_ifs
    · exact .configWrite rfl
    · exact .next _ rfl
  · split_ifs
    · exact .configWrite rfl
    · exact .next _ rfl
  · exact .next _ rfl

/-- A push goes on, whether its byte is accepted or not. -/
theorem MachineInv.step_push_goesOn {f : Byte} {m : IfNotAccepted} (hinv : MachineInv s)
    (hsc : s.script = .push f m :: rest) : ∃ t, step s = .next t := by
  cases hb : s.phase.busy with
  | true => exact hinv.step_push_busy ((Phase.busy_iff _).mp hb) hsc
  | false => exact ⟨_, (step_push hsc).trans (hostPush_notBusy hb)⟩

/-- In DONE every cell of the image is written (R34 I5). -/
theorem MachineInv.exists_read_of_done {addr : Nat} (hinv : MachineInv s) (hp : s.phase = .done)
    (ha : addr < 3 * s.sessW.toNat * s.sessH.toNat) : ∃ v, Memory.read s.grid addr = some v := by
  obtain ⟨-, ⟨hrow, hcol, hcomp, -⟩, -, hgrid, -⟩ := (machineInv_iff_of_done hp).mp hinv
  have hend : cursorAddr s = 3 * s.sessW.toNat * s.sessH.toNat := by
    simp [cursorAddr_eq, rowPos, hrow, hcol, hcomp, Nat.mul_comm]
  exact Memory.exists_read_of_keys hgrid (hend ▸ ha)

theorem MachineInv.hostGridRead_goesOnOrHostErrs (hinv : MachineInv s) (addr : Nat) :
    GoesOnOrHostErrs (hostGridRead addr s) := by
  by_cases h : s.phase = .done ∧ addr < 3 * s.sessW.toNat * s.sessH.toNat
  · obtain ⟨hp, ha⟩ := h
    obtain ⟨v, hv⟩ := hinv.exists_read_of_done hp ha
    exact .next _ (hostGridRead_eq_next.mpr ⟨hp, ha, v, hv, rfl⟩)
  · exact .gridRead (if_neg h)

/-- Under the invariant every host operation ends in one of these ways. -/
theorem MachineInv.step_goesOnOrHostErrs (hinv : MachineInv s) : GoesOnOrHostErrs (step s) := by
  cases hsc : s.script with
  | nil => exact .next s (step_silent hsc)
  | cons op rest =>
    cases op with
    | rd r => exact .next _ (step_rd hsc)
    | wr r v => exact step_wr hsc ▸ hostWrite_goesOnOrHostErrs r v s
    | push f m =>
      obtain ⟨t, ht⟩ := hinv.step_push_goesOn hsc
      exact .next t ht
    | grd addr => exact step_grd hsc ▸ hinv.hostGridRead_goesOnOrHostErrs addr
    | reset => exact .next _ (step_reset hsc)

/-- Settles O49: none of the ways a step ends is a fault or `notModelled`. -/
theorem noModelFaultIsReachable : Obligations.NoModelFaultIsReachable := by
  intro s hinv
  cases hinv.step_goesOnOrHostErrs with
  | next t h => simp [h]
  | configWrite h => simp [h]
  | start h => simp [h]
  | gridRead h => simp [h]

end Sys2Proof.Machine

/-! The host interface (spec/41_host_interface.md): the register map, then each host operation by the conditions of its rule. -/

namespace Sys2Proof.Machine

variable {s t : State} {rest : List HostOp} {i : BitVec 8} {v : Word}

/-- Settles O25: with an empty script the step is the silent one. -/
theorem blockHasNoAutonomousStep : Obligations.BlockHasNoAutonomousStep := fun _ h => step_silent h

/-! ## Register reads (R28, R83) -/

/-- The index of a register (R28). -/
def Reg.index : Reg → Nat
  | .ctrl => 0
  | .status => 1
  | .width => 2
  | .height => 3
  | .rowsDone => 4
  | .errKind => 5
  | .errRow => 6
  | .errByte => 7
  | .curRow => 8
  | .curCol => 9
  | .curComp => 10
  | .ftype => 11

theorem regOfIndex_eq_some {r : Reg} : regOfIndex i = some r ↔ i.toNat = r.index := by
  constructor
  · intro h
    unfold regOfIndex at h
    split at h <;> cases h <;> assumption
  · intro h
    cases r <;> simp [regOfIndex, h, Reg.index]

theorem readIndex_of_index (s : State) (r : Reg) (hi : i.toNat = r.index) : readIndex s i = readReg s r := by
  rw [readIndex, regOfIndex_eq_some.mpr hi]

theorem readIndex_of_unmapped (s : State) (hi : 12 ≤ i.toNat) : readIndex s i = 0 := by
  rw [readIndex, regOfIndex_of_unmapped hi]

/-- A register of at most 32 bits reads as its value, zero-extended (R27). -/
theorem toNat_readIndex {w : Nat} {x : BitVec w} (r : Reg) (hw : w ≤ 32) (hx : readReg s r = x.setWidth 32)
    (hi : i.toNat = r.index) : (readIndex s i).toNat = x.toNat := by
  rw [readIndex_of_index s r hi, hx, BitVec.toNat_setWidth_of_le hw]

/-- Settles O27: the value is that of the register with this index. -/
theorem registerRead : Obligations.RegisterRead := by
  intro s i rest h
  exact ⟨readIndex s i, step_rd h,
    readIndex_of_index s .ctrl, readIndex_of_index s .status, readIndex_of_index s .width, readIndex_of_index s .height,
    readIndex_of_index s .rowsDone, toNat_readIndex .errKind (by decide) rfl, readIndex_of_index s .errRow,
    toNat_readIndex .errByte (by decide) rfl, readIndex_of_index s .curRow, readIndex_of_index s .curCol,
    toNat_readIndex .curComp (by decide) rfl, toNat_readIndex .ftype (by decide) rfl, readIndex_of_unmapped s⟩

/-! ## Register writes (R84) -/

theorem hostWrite_ctrl (s : State) (v : Word) (hi : i.toNat = 0) :
    hostWrite i v s = if v.getLsbD 0 then hostStart s else .next (opDone s) := by
  rw [hostWrite, regOfIndex_eq_some (r := .ctrl).mpr hi]

theorem hostWrite_width (s : State) (v : Word) (hi : i.toNat = 2) :
    hostWrite i v s =
      if s.phase.busy then .refused .configWriteWhileBusy else .next (opDone { s with width := v }) := by
  rw [hostWrite, regOfIndex_eq_some (r := .width).mpr hi]

theorem hostWrite_height (s : State) (v : Word) (hi : i.toNat = 3) :
    hostWrite i v s =
      if s.phase.busy then .refused .configWriteWhileBusy else .next (opDone { s with height := v }) := by
  rw [hostWrite, regOfIndex_eq_some (r := .height).mpr hi]

theorem hostWrite_of_other (s : State) (v : Word) (h0 : i.toNat ≠ 0) (h2 : i.toNat ≠ 2) (h3 : i.toNat ≠ 3) :
    hostWrite i v s = .next (opDone s) := by
  rw [hostWrite]
  split
  · exact absurd (regOfIndex_eq_some.mp ‹_›) h0
  · exact absurd (regOfIndex_eq_some.mp ‹_›) h2
  · exact absurd (regOfIndex_eq_some.mp ‹_›) h3
  · rfl

theorem opDone_eq {op : HostOp} (h : s.script = op :: rest) : opDone s = { s with script := rest } := by
  rw [opDone, h, List.tail_cons]

theorem step_wr_ctrl_set (h : s.script = .wr i v :: rest) (hi : i.toNat = 0) (hv : v.getLsbD 0 = true) :
    step s = hostStart s := by
  rw [step_wr h, hostWrite_ctrl s v hi, if_pos hv]

theorem step_wr_ctrl_clear (h : s.script = .wr i v :: rest) (hi : i.toNat = 0) (hv : v.getLsbD 0 = false) :
    step s = .next { s with script := rest } := by
  rw [step_wr h, hostWrite_ctrl s v hi, if_neg (ne_true_of_eq_false hv), opDone_eq h]

theorem step_wr_size_busy (h : s.script = .wr i v :: rest) (hi : i.toNat = 2 ∨ i.toNat = 3) (hb : s.phase.busy = true) :
    step s = .refused .configWriteWhileBusy := by
  rcases hi with hi | hi
  · rw [step_wr h, hostWrite_width s v hi, if_pos hb]
  · rw [step_wr h, hostWrite_height s v hi, if_pos hb]

theorem step_wr_width (h : s.script = .wr i v :: rest) (hi : i.toNat = 2) (hb : s.phase.busy = false) :
    step s = .next { s with width := v, script := rest } := by
  rw [step_wr h, hostWrite_width s v hi, if_neg (ne_true_of_eq_false hb), opDone_eq (s := { s with width := v }) h]

theorem step_wr_height (h : s.script = .wr i v :: rest) (hi : i.toNat = 3) (hb : s.phase.busy = false) :
    step s = .next { s with height := v, script := rest } := by
  rw [step_wr h, hostWrite_height s v hi, if_neg (ne_true_of_eq_false hb), opDone_eq (s := { s with height := v }) h]

theorem step_wr_ignored (h : s.script = .wr i v :: rest) (hi : i.toNat = 1 ∨ 4 ≤ i.toNat) :
    step s = .next { s with script := rest } := by
  rw [step_wr h, hostWrite_of_other s v (by omega) (by omega) (by omega), opDone_eq h]

/-- Settles O28: each index and value by its own rule. -/
theorem registerWrite : Obligations.RegisterWrite := by
  intro s i v rest h
  exact ⟨step_wr_ctrl_set h, step_wr_ctrl_clear h, fun hi hp => step_wr_size_busy h hi ((Phase.busy_iff _).mpr hp),
    fun hi hf hs => step_wr_width h hi ((Phase.not_busy_iff _).mpr ⟨hf, hs⟩),
    fun hi hf hs => step_wr_height h hi ((Phase.not_busy_iff _).mpr ⟨hf, hs⟩), step_wr_ignored h⟩

/-! ## START (R85, R86) -/

/-- The conditions of R85, in terms of PHASE. -/
theorem startAdmitted_iff_of_phase :
    startAdmitted s = true ↔
      s.phase ≠ .filter ∧ s.phase ≠ .sample ∧ 1 ≤ s.width.toNat ∧ 1 ≤ s.height.toNat ∧
        3 * s.width.toNat * s.height.toNat ≤ s.gridBytes := by
  rw [startAdmitted_iff, Phase.not_busy_iff, and_assoc]

theorem step_start_admitted (h : s.script = .wr 0 v :: rest) (hv : v.getLsbD 0 = true) (ha : startAdmitted s = true) :
    step s = .next { beginSession s with script := rest } := by
  rw [step_wr_ctrl_set h rfl hv, hostStart, if_pos ha, opDone_eq (s := beginSession s) h]

theorem step_start_refused (h : s.script = .wr 0 v :: rest) (hv : v.getLsbD 0 = true) (ha : ¬ startAdmitted s = true) :
    step s = .refused .startNotAdmitted := by
  rw [step_wr_ctrl_set h rfl hv, hostStart, if_neg ha]

/-- Settles O29: an admitted START goes on, any other is refused. -/
theorem startAdmission : Obligations.StartAdmission := by
  intro s v rest h hv
  rw [← startAdmitted_iff_of_phase]
  by_cases ha : startAdmitted s = true
  · have hstep := step_start_admitted h hv ha
    exact ⟨iff_of_true ⟨_, hstep⟩ ha, fun hno => absurd ⟨_, hstep⟩ hno⟩
  · have hstep := step_start_refused h hv ha
    exact ⟨iff_of_false (by simp [hstep]) ha, fun _ => hstep⟩

/-- Settles O30: START's conditions admit it, and the session it begins is `beginSession`. -/
theorem startBeginsASession : Obligations.StartBeginsASession := by
  intro s v rest h hv hf hs hw hh hfits
  refine ⟨_, step_start_admitted h hv (startAdmitted_iff_of_phase.mpr ⟨hf, hs, hw, hh, hfits⟩), ?_⟩
  simp

/-- WR WIDTH, WR HEIGHT and START outside BUSY: three steps to a session of that size (R110). -/
theorem run_configure_start {w h : Word} (hb : s.phase.busy = false)
    (hs : s.script = .wr 2 w :: .wr 3 h :: .wr 0 1 :: rest)
    (ha : startAdmitted { s with width := w, height := h } = true) :
    Host.Core.run Sys2Proof.core 3 s =
      .next { beginSession { s with width := w, height := h } with script := rest } := by
  have hwidth := step_wr_width hs rfl hb
  have hheight := step_wr_height (s := { s with width := w, script := .wr 3 h :: .wr 0 1 :: rest }) rfl rfl hb
  have hstart :=
    step_start_admitted (s := { s with width := w, height := h, script := .wr 0 1 :: rest }) rfl (by decide) ha
  exact (run_succ 2 hwidth).trans ((run_succ 1 hheight).trans (run_succ 0 hstart))

/-- Settles O45: the sizes are written in IDLE and fit, so START is admitted. -/
theorem configureAndStartFromReset : Obligations.ConfigureAndStartFromReset := by
  intro w h g rest hw hh hfits
  have ha : startAdmitted { State.reset with gridBytes := g, width := w, height := h } = true :=
    (startAdmitted_iff _).mpr ⟨rfl, hw, hh, hfits⟩
  refine ⟨_, run_configure_start rfl rfl ha, machineInv_beginSession ha, ?_, rfl, rfl, rfl⟩
  rw [streamOffset_of_filter rfl]
  simp

/-! ## PUSH outside BUSY (R88) -/

/-- Settles O31: the byte is not accepted, and the script stays or loses the push. -/
theorem pushNotAccepted : Obligations.PushNotAccepted := by
  intro s f m rest hp h
  have hb : s.phase.busy = false := by
    rcases hp with hp | hp | hp <;> rw [hp] <;> rfl
  rw [step_push h, hostPush_notBusy hb, notAccepted_eq h]
  exact ⟨by rintro rfl; rfl, by rintro rfl; rfl⟩

/-! ## Grid reads (R90) -/

/-- Settles O32: in DONE every cell is written, and an address names its own cell. -/
theorem gridReadIsHandedOffInDone : Obligations.GridReadIsHandedOffInDone := by
  intro s addr rest hinv h
  rw [gridAddr_decompose, step_grd h]
  refine ⟨fun hp ha => ?_, fun hno => if_neg ?_⟩
  · obtain ⟨v, hv⟩ := hinv.exists_read_of_done hp ha
    exact ⟨v, hv, hv, hostGridRead_eq_next.mpr ⟨hp, ha, v, hv, by simp [opDone, answer, h]⟩⟩
  · rintro ⟨hp, ha⟩
    exact hno.elim (· hp) ha.not_ge

/-- In DONE a step other than START and RESET keeps everything that a grid read depends on (R90). -/
theorem handedOff_of_step (hp : s.phase = .done) (hstep : step s = .next t)
    (hstart : ∀ v rest, s.script = .wr 0 v :: rest → v.getLsbD 0 = false) (hreset : ∀ rest, s.script ≠ .reset :: rest) :
    t.phase = .done ∧ t.sessW = s.sessW ∧ t.sessH = s.sessH ∧ t.grid = s.grid := by
  cases blockEvent_of_step hstep with
  | quiet ops r hport ht => simp [ht, hp]
  | resize w h rest hb ht => simp [ht, hp]
  | start v rest h hv ha ht => exact absurd hv (ne_true_of_eq_false (hstart v rest h))
  | select f m rest h hp' hf ht => simp [hp] at hp'
  | badFilter f m rest h hp' hf ht => simp [hp] at hp'
  | withinRow f m rest x c k h hp' hin hfree hc hk hpos ht => simp [hp] at hp'
  | rowEnd f m rest x h hp' hin hfree hpos ht => simp [hp] at hp'
  | reset rest h ht => exact absurd h (hreset rest)

/-- Settles O33: the answer to a grid read depends on the session's size and the grid alone. -/
theorem handedOffGridIsStable : Obligations.HandedOffGridIsStable := by
  intro s t hp hstep hstart hreset
  obtain ⟨hpt, hw, hh, hgrid⟩ := handedOff_of_step hp hstep hstart hreset
  refine ⟨hpt, fun addr u hu => ?_⟩
  rw [step_grd rfl] at hu
  obtain ⟨-, ha, v, hv, rfl⟩ := hostGridRead_eq_next.mp hu
  refine ⟨_, (step_grd rfl).trans (hostGridRead_eq_next.mpr ⟨hpt, ?_, v, ?_, rfl⟩), rfl⟩
  · simpa [hw, hh] using ha
  · simpa [hgrid] using hv

end Sys2Proof.Machine

/-! The exceptions (spec/60_exceptions.md): the refusals of R98, by one `↔` per host operation, then what enters ERROR and what
leaves it. -/

namespace Sys2Proof.Machine

variable {s t : State} {rest : List HostOp} {r : Refusal}

/-! ## Refusals (R98) -/

/-- The meaning of an instruction stops at a model fault only. -/
theorem exec_ne_refused (i : Instr) : exec i s ≠ .refused r := by
  rw [exec_eq, rowStep]
  split
  · simp
  · split
    · simp
    · exact sampleStep_ne_refused
    all_goals simp

/-- No push is refused: its byte runs an instruction, raises FormatError or is not accepted (R87, R88). -/
theorem hostPush_ne_refused (f : Byte) : hostPush f s ≠ .refused r := by
  unfold hostPush
  split
  · split
    · exact exec_ne_refused _
    · simp
  · split
    · exact exec_ne_refused _
    · simp
  all_goals simp

theorem hostStart_eq_refused : hostStart s = .refused r ↔ r = .startNotAdmitted ∧ ¬ startAdmitted s = true := by
  unfold hostStart
  split_ifs with ha <;> simp [ha, eq_comm (b := r)]

/-- A write is refused as a write of a size (R84) or as a START (R85). -/
theorem hostWrite_eq_refused {i : BitVec 8} {v : Word} :
    hostWrite i v s = .refused r ↔
      (r = .configWriteWhileBusy ∧ s.phase.busy = true ∧ (i.toNat = 2 ∨ i.toNat = 3)) ∨
      (r = .startNotAdmitted ∧ ¬ startAdmitted s = true ∧ i = 0 ∧ v.getLsbD 0 = true) := by
  rw [show i = 0 ↔ i.toNat = 0 from BitVec.toNat_inj.symm]
  by_cases h0 : i.toNat = 0
  · rw [hostWrite_ctrl s v h0]
    cases v.getLsbD 0 <;> simp [hostStart_eq_refused, h0]
  by_cases h2 : i.toNat = 2
  · rw [hostWrite_width s v h2]
    split_ifs with hb <;> simp [h2, hb, eq_comm (b := r)]
  by_cases h3 : i.toNat = 3
  · rw [hostWrite_height s v h3]
    split_ifs with hb <;> simp [h3, hb, eq_comm (b := r)]
  · simp [hostWrite_of_other s v h0 h2 h3, h0, h2, h3]

theorem hostGridRead_eq_refused {addr : Nat} :
    hostGridRead addr s = .refused r ↔
      r = .gridReadNotHandedOff ∧ (s.phase ≠ .done ∨ 3 * s.sessW.toNat * s.sessH.toNat ≤ addr) := by
  rw [← not_lt, ← not_and_or]
  unfold hostGridRead
  dsimp only
  split_ifs with hin
  · split <;> simp [hin]
  · rw [Host.Outcome.refused.injEq, eq_comm, and_iff_left hin]

/-- Settles O36: of the host operations a write and a grid read alone can be refused, each by its own rule. -/
theorem refusalsAreBrokenHostDuties : Obligations.RefusalsAreBrokenHostDuties := by
  intro s r
  rw [← startAdmitted_iff_of_phase, ← Phase.busy_iff]
  cases hsc : s.script with
  | nil => simp [step_silent hsc]
  | cons op rest =>
    cases op with
    | rd i => simp [step_rd hsc]
    | wr i v =>
      rw [step_wr hsc, hostWrite_eq_refused]
      simp
    | push f m => simp [step_push hsc, hostPush_ne_refused]
    | grd addr =>
      rw [step_grd hsc, hostGridRead_eq_refused]
      simp
    | reset => simp [step_reset hsc]

/-! ## Error entry (R95, R96) -/

/-- In FILTER an illegal filter-type byte is consumed and writes the error record and PHASE. -/
theorem step_push_badFilter {f : Byte} {m : IfNotAccepted} (hp : s.phase = .filter) (hsc : s.script = .push f m :: rest)
    (hf : 4 < f.toNat) : step s = .next { raiseFormatError badFilterType s.curRow f s with script := rest } := by
  rw [step_push hsc, hostPush_bad hp hf, opDone_eq (s := raiseFormatError badFilterType s.curRow f s) hsc]

/-- Settles O37: the grid stays as it was at the filter-type byte, when the written cells are those of the rows before. -/
theorem errorEntryIsPrecise : Obligations.ErrorEntryIsPrecise := by
  intro s f m rest hinv hp hsc hf
  obtain ⟨-, ⟨hw, -, -⟩, ⟨-, hcol, hcomp⟩, -, hgrid, -⟩ := (machineInv_iff_of_filter hp).mp hinv
  refine ⟨_, step_push_badFilter hp hsc hf, rfl, hcol, hcomp, fun r c k hc hk => ?_⟩
  rw [hw] at hc ⊢
  exact (Memory.read_isSome_of_keys hgrid).trans (gridAddr_lt_cursorAddr_of_rowStart hcol hcomp hc hk)

/-- Settles O38: ERR_ROW is the row of the filter-type byte, and WIDTH is still the session's W. -/
theorem offendingOffsetNamesTheBadByte : Obligations.OffendingOffsetNamesTheBadByte := by
  intro s f m rest hinv hp hsc hf
  obtain ⟨-, ⟨hw, -, -⟩, -⟩ := (machineInv_iff_of_filter hp).mp hinv
  refine ⟨_, step_push_badFilter hp hsc hf, rfl, streamOffset_of_filter hp, ?_⟩
  simp [offendingOffset, hw]

/-! ## ERROR ends by START and RESET (R97) -/

/-- Settles O39: in ERROR no byte is consumed, and of the events that are left START and RESET alone write the record. -/
theorem errorPersistsUntilStartOrReset : Obligations.ErrorPersistsUntilStartOrReset := by
  intro s t hp hstep
  cases blockEvent_of_step hstep with
  | quiet ops r hport ht => simp [ht, hp]
  | resize w h rest hb ht => simp [ht, hp]
  | start v rest h hv ha ht => exact .inr ⟨.inl ⟨by simp [ht], v, rest, h, hv⟩, by simp [ht]⟩
  | select f m rest h hp' hf ht => simp [hp] at hp'
  | badFilter f m rest h hp' hf ht => simp [hp] at hp'
  | withinRow f m rest x c k h hp' hin hfree hc hk hpos ht => simp [hp] at hp'
  | rowEnd f m rest x h hp' hin hfree hpos ht => simp [hp] at hp'
  | reset rest h ht => exact .inr ⟨.inr ⟨by simp [ht], rest, h⟩, by simp [ht]⟩

end Sys2Proof.Machine

/-! RESET (R108), and the end of every session that gets its whole stream (R111). -/

namespace Sys2Proof.Machine

open Host.Core (run)

variable {s : State} {rest : List HostOp}

/-- Settles O43: RESET is admitted in every phase, and the block it leaves is that of `State.reset`. -/
theorem resetOperation : Obligations.ResetOperation := by
  intro s rest h
  have hunwritten : ∀ a, Memory.read (resetBlock s).grid a = none := fun _ => rfl
  have hstatus : readReg (resetBlock s) .status = 0 := readReg_reset .status
  exact ⟨_, step_reset h, rfl, rfl, rfl, rfl, rfl, rfl, rfl, rfl, rfl, rfl, rfl, hunwritten, hstatus, rfl, rfl⟩

/-- From any offset of a session, as many pushes as bytes are left of the stream end it. Each of them either ends the
session or moves on to the next offset (R21). -/
theorem MachineInv.session_ends {n : Nat} {bytes : List Byte} (hinv : MachineInv s) (hn : streamOffset s = some n)
    (hlen : n + bytes.length = s.sessH.toNat * (1 + 3 * s.sessW.toNat)) (hsc : s.script = pushes bytes ++ rest) :
    ∃ k t, k ≤ bytes.length ∧ run core k s = .next t ∧ (t.phase = .done ∨ t.phase = .error) := by
  induction bytes generalizing s n with
  | nil => exact absurd hlen (hinv.streamOffset_lt hn).ne
  | cons f bytes ih =>
    have hpush : s.script = .push f .waits :: (pushes bytes ++ rest) := hsc
    have hbusy := busy_of_streamOffset hn
    obtain ⟨u, hu⟩ := hinv.step_push_busy hbusy hpush
    obtain ⟨hscu, hgoes | ⟨herror, -⟩ | ⟨hdone, -⟩⟩ := hinv.streamOffset_of_push hn hpush hu
    · obtain ⟨-, -, hw, hh⟩ := sizesAreFixedWhileBusy s u hu hbusy (by simp [hpush])
      have hleft : n + 1 + bytes.length = u.sessH.toNat * (1 + 3 * u.sessW.toNat) := by
        rw [hw, hh, ← hlen, List.length_cons]
        omega
      obtain ⟨k, t, hk, ht, hend⟩ := ih (invariantIsKeptByEveryStep s u hinv hu) hgoes hleft hscu
      exact ⟨k + 1, t, Nat.succ_le_succ hk, (run_succ k hu).trans ht, hend⟩
    · exact ⟨1, u, Nat.succ_pos _, run_succ 0 hu, .inr herror⟩
    · exact ⟨1, u, Nat.succ_pos _, run_succ 0 hu, .inl hdone⟩

/-- Settles O51: at offset 0 the bytes that are left are the whole stream. -/
theorem sessionEndsWithinItsStream : Obligations.SessionEndsWithinItsStream := by
  intro s bytes rest hinv h0 hlen hsc
  obtain ⟨n, t, hn, hrun, hend⟩ := hinv.session_ends h0 ((Nat.zero_add _).trans hlen) hsc
  exact ⟨n, t, hlen ▸ hn, hrun, hend⟩

end Sys2Proof.Machine
